-- ==== Sys2Proof/Word.lean ====
section
/-! DEFINITION. The word types of SPIM2CS and the closed enumerations its rules name: the two sub-devices
(00_scope.md R2, R5), the level of a chip-select line (10_state.md R29) and the phase of a frame as the reference
device sees it (20_memory.md R76). -/

namespace Sys2Proof

/-- The bus transfer unit, `BYTEW` = 8 bits (00_scope.md R5). -/
abbrev Byte := BitVec 8

/-- A device register address, `AW` = 7 bits (00_scope.md R5). -/
abbrev Addr := BitVec 7

/-- A raw sample, a scaled reading or a response, `RAWW` = 16 bits (00_scope.md R5). -/
abbrev Half := BitVec 16

/-- A host command word `CW`, `CWW` = 32 bits (00_scope.md R5, 30_encoding.md R107). -/
abbrev Word := BitVec 32

/-- The two sub-devices on the bus (00_scope.md R2): "a closed enumeration selecting which of two chip-select lines to
assert". -/
inductive Device where
  | ag
  | m
deriving DecidableEq, Repr, Inhabited

/-- The level of a chip-select line (10_state.md R29): low = 0 = asserted, high = 1 = deasserted. -/
inductive Level where
  | low
  | high
deriving DecidableEq, Repr, Inhabited

/-- Where a sub-device stands in a frame (20_memory.md R76): `IDLE`, `ADDR`, `DATA`. -/
inductive Phase where
  | idle
  | addr
  | data
deriving DecidableEq, Repr, Inhabited

/-- Clock polarity and phase of the bus, the two bits of `SPI_MODE` (00_scope.md R5). -/
structure SpiMode where
  cpol : Bool
  cpha : Bool
deriving DecidableEq, Repr, Inhabited

end Sys2Proof
end

