-- ==== Sys2Proof/Config.lean ====
section
/-! DEFINITION. What the spec leaves open: the `OPEN` parameters of 00_scope.md R5 and the free values of
93_implementation_defined.md Part 1. Each is a constant without a body, so no proof can see a value of it. -/

namespace Sys2Proof.Config

/-- `BITCLK_DIV`, the divider INIT writes to `CFG.CKDIV` (00_scope.md R5, 10_state.md R30; U12). Its width is open, so
it is a natural number (log entry 3). -/
opaque bitclkDiv : Nat

/-- `SPI_MODE` (00_scope.md R5; U12). "No rule of the model depends on" it (40_transport.md R144). -/
opaque spiMode : SpiMode

/-- `INIT_DATA[i]`, the byte entry `i` of the INIT script writes (00_scope.md R5, 41_register_protocol.md R166; U11). -/
opaque initData : Fin 6 → Byte

/-- The answer of the normative environment to the transfer with draw number `n`: the byte received, or `none` where the
transfer never completes (20_memory.md R70, 60_exceptions.md R226; U1, U3, U6, U7, U10, U13; log entry 4). -/
opaque freeAnswer : Nat → Option Byte

/-- A received byte the reference device leaves to a free draw (20_memory.md R78, R79, R81; `IDLE_BYTE` of R5). -/
opaque freeByte : Nat → Byte

/-- The content of register `a` of device `d` after both lines were low in the transfer with draw number `n`
(20_memory.md R72, R81; U2). -/
opaque freeReg : Nat → Device → Nat → Byte

/-- The pointer of device `d` after both lines were low (20_memory.md R81). -/
opaque freePtr : Nat → Device → Addr

/-- The phase of device `d` after both lines were low (20_memory.md R81). -/
opaque freePhase : Nat → Device → Phase

/-- The read bit of device `d` after both lines were low (20_memory.md R81). -/
opaque freeRw : Nat → Device → Bool

/-- Whether device `d` counts a data byte of its write frame as taken after both lines were low (20_memory.md R81; the
model's own bit, log entry 6). -/
opaque freeWrote : Nat → Device → Bool

end Sys2Proof.Config
end

