-- ==== Sys2Proof/Syntax.lean ====
section
/-! DEFINITION. The 17 commands of spec/opcode_table.json, one constructor per row (30_encoding.md R114, R115, R120). -/

namespace Sys2Proof

/-- A command of the host to the block. The byte count of RDREG is a natural number here and is checked by
`Instr.WellFormed`: "byteCount ∈ {1,2}" (30_encoding.md R113). -/
inductive Instr where
  /-- Configure the shift engine and run the script of register writes (41_register_protocol.md R165). -/
  | init
  /-- Assert one chip-select (40_transport.md R141). -/
  | sel (dev : Device)
  /-- Deassert one chip-select (40_transport.md R142). -/
  | desel (dev : Device)
  /-- One full-duplex byte transfer (40_transport.md R143). -/
  | xfer (byte : Byte)
  /-- Write one byte to a device register (41_register_protocol.md R160). -/
  | wrreg (dev : Device) (addr : Addr) (data : Byte)
  /-- Read one or two bytes from a device register (41_register_protocol.md R161). -/
  | rdreg (dev : Device) (addr : Addr) (bc : Nat)
  /-- Acceleration X (42_accessors_scaling.md R182). -/
  | rdax
  /-- Acceleration Y (R183). -/
  | rday
  /-- Acceleration Z (R184). -/
  | rdaz
  /-- Angular rate X (R185). -/
  | rdgx
  /-- Angular rate Y (R186). -/
  | rdgy
  /-- Angular rate Z (R187). -/
  | rdgz
  /-- Magnetic field X (R188). -/
  | rdmx
  /-- Magnetic field Y (R189). -/
  | rdmy
  /-- Magnetic field Z (R190). -/
  | rdmz
  /-- Temperature (R191). -/
  | rdtemp
  /-- Identity byte of one sub-device (R192). -/
  | rdid (dev : Device)
deriving DecidableEq, Repr

/-- The mnemonic of a command as spec/opcode_table.json spells it. -/
def Instr.mnemonic : Instr → String
  | .init => "INIT"
  | .sel _ => "SEL"
  | .desel _ => "DESEL"
  | .xfer _ => "XFER"
  | .wrreg _ _ _ => "WRREG"
  | .rdreg _ _ _ => "RDREG"
  | .rdax => "RDAX"
  | .rday => "RDAY"
  | .rdaz => "RDAZ"
  | .rdgx => "RDGX"
  | .rdgy => "RDGY"
  | .rdgz => "RDGZ"
  | .rdmx => "RDMX"
  | .rdmy => "RDMY"
  | .rdmz => "RDMZ"
  | .rdtemp => "RDTEMP"
  | .rdid _ => "RDID"

end Sys2Proof
end

