-- ==== Sys2Proof/Machine/State.lean ====
section
/-! DEFINITION. The state of the machine as plain data: every register, flag and hidden register of the block
(10_state.md R20), its ports as far as they hold something (R39, R40), the trace (00_scope.md R9), and the two agents
around it (R11): what the host will present, and what answers the bus (20_memory.md R70 to R82). -/

namespace Sys2Proof.Machine

/-- The register contents of one sub-device of the reference device (20_memory.md R60, R76): byte cells at addresses 0 to
127 in rising order, none holding 0x00, which is what an unlisted address reads as (log entry 5). -/
abbrev Memory := List Host.Cell

/-- One sub-device of the reference device (20_memory.md R76). -/
structure RefDevice where
  /-- `reg[d]`, 128 bytes. -/
  reg : Memory
  /-- `ptr[d]`. -/
  ptr : Addr
  /-- `phase[d]`. -/
  phase : Phase
  /-- `rw[d]`: true for a read frame. -/
  rw : Bool
  /-- `ainc[d]`, the device's increment capability, a parameter of the test. -/
  ainc : Bool
  /-- `writable[d]`, a parameter of the test. -/
  writable : List Addr
  /-- The write frame in progress has had its data byte: a second one is outside the reference device (R79). -/
  wrote : Bool
  /-- A `CS(d, 0)` while the line is low already restarts the frame (R77); where false it is no fall of the line and the
  frame goes on (70_reset_and_hazards.md R258). The two rules differ, so it is a parameter of the test (log entry 16). -/
  restarts : Bool
deriving DecidableEq, Repr

/-- The reference device (20_memory.md R76 to R82). -/
structure RefDev where
  ag : RefDevice
  m : RefDevice
  /-- A second data byte of a write frame has been sent: later answers are free draws (R79). -/
  outside : Bool
deriving DecidableEq, Repr

/-- What answers the bus (20_memory.md R70). -/
inductive Env where
  /-- The normative environment: the answers it will give to the coming transfers, `none` for a transfer that never
  completes; after the listed ones every answer is a free draw (R70, 60_exceptions.md R226). -/
  | unconstrained (answers : List (Option Byte))
  /-- The reference device of R76 to R82. -/
  | refDev (device : RefDev)
deriving DecidableEq, Repr

/-- The events of the trace (00_scope.md R9). -/
inductive Event where
  /-- `CS(d, level)`. -/
  | cs (dev : Device) (level : Level)
  /-- `XFER(tx, rx)`. -/
  | xfer (tx rx : Byte)
  /-- `CFGW(mstr, msbf, ckdiv, ainc)`. -/
  | cfgw (mstr msbf : Bool) (ckdiv : Nat) (ainc : Bool)
deriving DecidableEq, Repr

/-- `TD`, the 19-bit transaction descriptor, by its fields (10_state.md R32); `Td.word` gives its bits. -/
structure Td where
  /-- `TD.DEV` = `TD[18]`. -/
  dev : Device
  /-- `TD.BCM1` = `TD[17]`, byte count minus one. -/
  bcm1 : Bool
  /-- `TD.AINC` = `TD[16]`. -/
  ainc : Bool
  /-- `TD.RW` = `TD[15]`, true for a read. -/
  rw : Bool
  /-- `TD.ADDR` = `TD[14:8]`. -/
  addr : Addr
  /-- `TD.DATA` = `TD[7:0]`. -/
  data : Byte
deriving DecidableEq, Repr

/-- The block raises no exception (60_exceptions.md R220: "The list of exception causes and codes is therefore empty"), so
there is no fault of the machine: nothing raises one. The one event the spec calls a fault is a fault of the host program
(R222) and is recorded in `State.hostFault`. -/
inductive Fault
deriving DecidableEq, Repr

/-- Why the model gives no meaning. -/
inductive Refusal where
  /-- Raised by `exec`'s arm of an instruction that has no meaning yet. Safe. -/
  | notModelled (mnemonic : String)
  /-- Raised by every command but INIT while the shift engine is not configured: `STATUS.INITD` = 0
  (70_reset_and_hazards.md R255: "a model must refuse such a command"), or `CFG.MSTR` or `CFG.MSBF` = 0 (10_state.md
  R30). Safe. -/
  | notInitialised
  /-- Raised by RDREG with a byte count outside {1, 2}: a term that is no command, which no command word decodes to
  (41_register_protocol.md R162). Safe. -/
  | illFormedByteCount
deriving DecidableEq, Repr

/-- The state. -/
structure State where
  /-- `TXBUF` (10_state.md R21). -/
  txbuf : Byte
  /-- `RXBUF` (R21). -/
  rxbuf : Byte
  /-- `RDXBUF`, the scratch register (R22). -/
  rdxbuf : Half
  /-- `RES`, the response register (R23). -/
  res : Half
  /-- `SEQ`, the bus steps the current command has completed (R24). -/
  seq : Nat
  /-- `CMD`, the command being executed, or none (R24). -/
  cmd : Option Instr
  /-- `STATUS.BUSY` (R26). -/
  busy : Bool
  /-- `STATUS.INITD` (R27). -/
  initd : Bool
  /-- `STATUS.ILL` (R28). -/
  ill : Bool
  /-- `CSOUT.AG_N` (R29). -/
  agN : Level
  /-- `CSOUT.M_N` (R29). -/
  mN : Level
  /-- `CFG.MSTR` (R30). -/
  mstr : Bool
  /-- `CFG.MSBF` (R30). -/
  msbf : Bool
  /-- `CFG.CKDIV` (R30). -/
  ckdiv : Nat
  /-- `CFG.AINC` (R30). -/
  ainc : Bool
  /-- `TD`, the transaction descriptor (R32). -/
  td : Td
  /-- The events since reset, oldest first (00_scope.md R9; 10_state.md R37). -/
  trace : List Event
  /-- The response port's completion strobe (R40): the last step completed a command. -/
  strobe : Bool
  /-- The response port's has-value bit (R40). -/
  hasValue : Bool
  /-- The command words the host will present at the command port, in order (00_scope.md R11, 10_state.md R40). -/
  host : List Word
  /-- The host program has presented an illegal word (60_exceptions.md R222). -/
  hostFault : Bool
  /-- When the reset input will be asserted (70_reset_and_hazards.md R250): the ticks left before the first assertion,
  then from each assertion to the next. A tick is the acceptance of a word, a bus step, or a step in which the block makes
  none (log entry 9). -/
  resets : List Nat
  /-- What answers the bus (20_memory.md R70). -/
  env : Env
  /-- The model's counter of transfers asked for: the number of the next free draw (log entry 4). -/
  draws : Nat
deriving DecidableEq, Repr

/-- The machine right after reset (10_state.md R37, 70_reset_and_hazards.md R251). `TXBUF`, `RXBUF`, `RDXBUF`, `RES`,
`CFG.CKDIV` and `TD` are unspecified there and zero here (log entry 1); the response port, the host and the environment
are the model's (log entries 2 and 4). -/
def State.reset : State where
  txbuf := 0
  rxbuf := 0
  rdxbuf := 0
  res := 0
  seq := 0
  cmd := none
  busy := false
  initd := false
  ill := false
  agN := .high
  mN := .high
  mstr := false
  msbf := false
  ckdiv := 0
  ainc := false
  td := ⟨.ag, false, false, false, 0, 0⟩
  trace := []
  strobe := false
  hasValue := false
  host := []
  hostFault := false
  resets := []
  env := .unconstrained []
  draws := 0

end Sys2Proof.Machine
end

