-- ==== Sys2Proof/Machine/Memory.lean ====
section
/-! DEFINITION. The register contents of one sub-device of the reference device (20_memory.md R60, R76): 128 byte
locations, as cells in one canonical form. -/

namespace Sys2Proof.Machine

/-- What an unlisted location reads as (log entry 5). -/
def unlisted : Byte := 0x00

/-- The number of locations of one register space (20_memory.md R60). -/
def spaceSize : Nat := 128

/-- The cells from address `lo` up are in canonical form: addresses strictly rising, inside the space, no cell equal to
what an unlisted location reads as. -/
def Memory.wfFrom : Nat → Memory → Bool
  | _, [] => true
  | lo, c :: cs => decide (lo ≤ c.1) && decide (c.1 < spaceSize) && decide (c.2 ≠ unlisted) && Memory.wfFrom (c.1 + 1) cs

/-- The canonical form, so that equal memories are equal data. -/
def Memory.wf (mem : Memory) : Bool := Memory.wfFrom 0 mem

/-- The byte at a location. -/
def Memory.readAt : Memory → Nat → Byte
  | [], _ => unlisted
  | c :: cs, a => if a = c.1 then c.2 else Memory.readAt cs a

/-- Write the byte at a location, keeping the canonical form. -/
def Memory.writeAt : Memory → Nat → Byte → Memory
  | [], a, v => if v = unlisted then [] else [(a, v)]
  | c :: cs, a, v =>
    if a < c.1 then (if v = unlisted then c :: cs else (a, v) :: c :: cs)
    else if a = c.1 then (if v = unlisted then cs else (a, v) :: cs)
    else c :: Memory.writeAt cs a v

/-- `reg[d][a]` (20_memory.md R76). -/
def Memory.read (mem : Memory) (a : Addr) : Byte := Memory.readAt mem a.toNat

/-- `reg[d][a] <- v` (20_memory.md R79). -/
def Memory.write (mem : Memory) (a : Addr) (v : Byte) : Memory := Memory.writeAt mem a.toNat v

/-- A register space with the given contents at the first `n` locations. -/
def Memory.ofContents (f : Nat → Byte) : Nat → Memory
  | 0 => []
  | n + 1 => Memory.writeAt (Memory.ofContents f n) n (f n)

end Sys2Proof.Machine
end

