-- ==== Sys2Proof/Machine/Environment.lean ====
section
/-! DEFINITION. What answers the bus (20_memory.md R70 to R82): the normative environment, which supplies any byte and
may never complete a transfer, and the reference device for tests. -/

namespace Sys2Proof.Machine

/-- The levels of the two chip-select lines as the devices see them. -/
structure Lines where
  ag : Level
  m : Level
deriving DecidableEq, Repr

/-- The lines after one of them is driven: the other keeps its level (10_state.md R29). -/
def Lines.drive (l : Lines) (d : Device) (v : Level) : Lines where
  ag := if d = .ag then v else l.ag
  m := if d = .m then v else l.m

/-- The level of one line. -/
def Lines.of (l : Lines) : Device → Level
  | .ag => l.ag
  | .m => l.m

/-- R77: `CS(d, 0)` starts a frame, `CS(d, 1)` ends it. With the line low already `CS(d, 0)` restarts the frame (R77), or is
no fall of the line, so that the next byte is taken as it would have been (70_reset_and_hazards.md R258), as the
parameter `restarts` says (log entry 16). `was` is the level before the event. -/
def RefDevice.onCs (was v : Level) (x : RefDevice) : RefDevice :=
  match v with
  | .low => if was = .low ∧ x.restarts = false then x else { x with phase := .addr, wrote := false }
  | .high => { x with phase := .idle, wrote := false }

/-- R78: the address byte of a frame. -/
def RefDevice.takeAddr (tx : Byte) (x : RefDevice) : RefDevice :=
  { x with rw := tx.msb, ptr := tx.setWidth 7, phase := .data, wrote := false }

/-- R79, R80: after a data byte of a read the pointer advances modulo 128 where the capability is enabled. -/
def RefDevice.advance (x : RefDevice) : RefDevice :=
  { x with ptr := if x.ainc then x.ptr + 1 else x.ptr }

/-- R79: the data byte of a write takes effect where the location is writable. -/
def RefDevice.takeData (tx : Byte) (x : RefDevice) : RefDevice :=
  { x with reg := if x.ptr ∈ x.writable then x.reg.write x.ptr tx else x.reg, wrote := true }

/-- The register contents of device `d` after both lines were low in the transfer with draw number `n`: 128 free values
(R72, R81). -/
@[irreducible] def unknownReg (n : Nat) (d : Device) : Memory := Memory.ofContents (Config.freeReg n d) spaceSize

/-- R72, R81: after a transfer with both lines low every register, the pointer, the phase and the read bit are unknown. -/
def RefDevice.unknown (n : Nat) (d : Device) (x : RefDevice) : RefDevice :=
  { x with
    reg := unknownReg n d
    ptr := Config.freePtr n d
    phase := Config.freePhase n d
    rw := Config.freeRw n d
    wrote := Config.freeWrote n d }

/-- What the selected sub-device does with a transfer. -/
structure Answered where
  rx : Byte
  device : RefDevice
  /-- The transfer is outside the reference device (R79). -/
  outside : Bool

/-- R78 and R79: the selected sub-device answers one transfer, `free` being the free draw for a byte the rules leave
open. A selected device in phase `IDLE` has no rule and leaves the byte open (log entry 6). -/
def RefDevice.answer (tx free : Byte) (x : RefDevice) : Answered :=
  match x.phase with
  | .idle => ⟨free, x, false⟩
  | .addr => ⟨free, x.takeAddr tx, false⟩
  | .data =>
    if x.rw then ⟨x.reg.read x.ptr, x.advance, false⟩
    else if x.wrote then ⟨free, x, true⟩
    else ⟨free, x.takeData tx, false⟩

/-- The answer to one transfer: the byte received, or `none` where it never completes, and the environment after it. -/
structure Answer where
  rx : Option Byte
  env : Env

/-- One sub-device of the reference device. -/
def RefDev.sub (r : RefDev) : Device → RefDevice
  | .ag => r.ag
  | .m => r.m

/-- The reference device with one sub-device replaced. -/
def RefDev.withSub (d : Device) (x : RefDevice) (r : RefDev) : RefDev :=
  match d with
  | .ag => { r with ag := x }
  | .m => { r with m := x }

/-- R78, R79: a transfer with the line of `d` alone low; after a transfer outside the reference device every answer is a
free draw (R79). -/
def RefDev.answerFrom (d : Device) (tx : Byte) (n : Nat) (r : RefDev) : Answer :=
  if r.outside then ⟨some (Config.freeByte n), .refDev r⟩
  else
    let x := (r.sub d).answer tx (Config.freeByte n)
    ⟨some x.rx, .refDev { r.withSub d x.device with outside := x.outside }⟩

/-- R78 to R81: the reference device answers a transfer, `n` being the draw number. It always completes one (R82). -/
def RefDev.answer (l : Lines) (tx : Byte) (n : Nat) (r : RefDev) : Answer :=
  match l.ag, l.m with
  | .low, .high => r.answerFrom .ag tx n
  | .high, .low => r.answerFrom .m tx n
  | .high, .high => ⟨some (Config.freeByte n), .refDev r⟩
  | .low, .low =>
    ⟨some (Config.freeByte n), .refDev { r with ag := r.ag.unknown n .ag, m := r.m.unknown n .m }⟩

/-- R70: the environment answers the transfer of `tx` with the lines at `l`, `n` being the draw number. -/
def Env.answer (l : Lines) (tx : Byte) (n : Nat) : Env → Answer
  | .unconstrained [] => ⟨Config.freeAnswer n, .unconstrained []⟩
  | .unconstrained (a :: rest) => ⟨a, .unconstrained rest⟩
  | .refDev r => r.answer l tx n

/-- The environment sees the line of `d` driven to `v`, the lines having been at `l` (R77). -/
def Env.onCs (l : Lines) (d : Device) (v : Level) : Env → Env
  | .unconstrained answers => .unconstrained answers
  | .refDev r => .refDev (r.withSub d ((r.sub d).onCs (l.of d) v))

/-- What the environment answers to a run of transfers with the lines held: the bytes received and the environment after
them where every one completes, else nothing. -/
def Env.answers (l : Lines) : List Byte → Nat → Env → Option (List Byte × Env)
  | [], _, e => some ([], e)
  | tx :: txs, n, e =>
    match e.answer l tx n with
    | ⟨none, _⟩ => none
    | ⟨some rx, e'⟩ =>
      match e'.answers l txs (n + 1) with
      | none => none
      | some (rxs, e'') => some (rx :: rxs, e'')

/-- The register contents of a sub-device; the normative environment has none (R72). -/
def Env.regs : Env → Device → Option Memory
  | .unconstrained _, _ => none
  | .refDev r, d => some (r.sub d).reg

/-- Register `a` of sub-device `d` as it stands, where the environment has register contents. -/
def Env.regAt (e : Env) (d : Device) (a : Addr) : Option Byte := (e.regs d).map (fun mem => mem.read a)

/-- The register contents of the environment are in canonical form. -/
def Env.memWf : Env → Bool
  | .unconstrained _ => true
  | .refDev r => r.ag.reg.wf && r.m.reg.wf

end Sys2Proof.Machine
end

