-- ==== Sys2Proof/WellFormed.lean ====
section
/-! DEFINITION. Which terms of `Instr` are commands. The widths of the operands are in their types; the one check is
the byte count of a read, `BCSET` = {1, 2} (00_scope.md R5, 30_encoding.md R113, 20_memory.md R67). -/

namespace Sys2Proof

/-- The legal byte counts of a read (00_scope.md R5 `BCSET`). -/
abbrev LegalByteCount (bc : Nat) : Prop := bc = 1 ∨ bc = 2

/-- A well-formed command: every operand at a value that a command word can hold. -/
abbrev Instr.WellFormed : Instr → Prop
  | .rdreg _ _ bc => LegalByteCount bc
  | .init => True
  | .sel _ => True
  | .desel _ => True
  | .xfer _ => True
  | .wrreg _ _ _ => True
  | .rdax => True
  | .rday => True
  | .rdaz => True
  | .rdgx => True
  | .rdgy => True
  | .rdgz => True
  | .rdmx => True
  | .rdmy => True
  | .rdmz => True
  | .rdtemp => True
  | .rdid _ => True

end Sys2Proof
end

