-- ==== Sys2Proof/Decode.lean ====
section
/-! DEFINITION. The command word (30_encoding.md R107 to R117): a decoder that is total on 32-bit words, an encoder
written from the same layouts, and the opcode table's match and mask pairs. -/

namespace Sys2Proof

/-- `v[hi:lo]` as a number (00_scope.md R6). -/
def slice {n : Nat} (v : BitVec n) (hi lo : Nat) : Nat := v.toNat / 2 ^ lo % 2 ^ (hi + 1 - lo)

/-- `DEV`: 0 = `AG`, 1 = `M` (30_encoding.md R113). -/
def Device.code : Device → Nat
  | .ag => 0
  | .m => 1

/-- The device a `DEV` bit names (30_encoding.md R113). -/
def Device.ofCode : Nat → Device
  | 0 => .ag
  | _ => .m

/-- Format Z (R108): every bit below `OP` is MBZ. -/
def decodeZ (w : Word) : Option Instr :=
  if slice w 27 0 = 0 then some .init else none

/-- Format D (R109): `DEV` in bit 16, every other bit below `OP` MBZ. -/
def decodeD (command : Device → Instr) (w : Word) : Option Instr :=
  if slice w 27 17 = 0 ∧ slice w 15 0 = 0 then some (command (.ofCode (slice w 16 16))) else none

/-- Format B (R110): `BYTE` in bits 7 to 0, every other bit below `OP` MBZ. -/
def decodeB (w : Word) : Option Instr :=
  if slice w 27 8 = 0 then some (.xfer (BitVec.ofNat 8 (slice w 7 0))) else none

/-- Format R (R111) with the checks of R116 step 3: a write has `BCM1` = 0, a read has `DATA` = 0x00. -/
def decodeR (w : Word) : Option Instr :=
  if slice w 27 18 ≠ 0 then none
  else if slice w 15 15 = 0 then
    if slice w 17 17 = 0 then
      some (.wrreg (.ofCode (slice w 16 16)) (BitVec.ofNat 7 (slice w 14 8)) (BitVec.ofNat 8 (slice w 7 0)))
    else none
  else
    if slice w 7 0 = 0 then
      some (.rdreg (.ofCode (slice w 16 16)) (BitVec.ofNat 7 (slice w 14 8)) (slice w 17 17 + 1))
    else none

/-- Format A (R112, R115): `FN` selects the accessor; `DEV` is an operand of RDID only and MBZ for `FN` 0 to 9. -/
def decodeA (w : Word) : Option Instr :=
  if slice w 27 17 ≠ 0 ∨ slice w 15 4 ≠ 0 then none
  else if slice w 3 0 = 10 then some (.rdid (.ofCode (slice w 16 16)))
  else if slice w 16 16 ≠ 0 then none
  else match slice w 3 0 with
    | 0 => some .rdax
    | 1 => some .rday
    | 2 => some .rdaz
    | 3 => some .rdgx
    | 4 => some .rdgy
    | 5 => some .rdgz
    | 6 => some .rdmx
    | 7 => some .rdmy
    | 8 => some .rdmz
    | 9 => some .rdtemp
    | _ => none

/-- The decoder (R116): total on every 32-bit word; `none` is the verdict `Illegal` (R117). -/
def decode (w : Word) : Option Instr :=
  match slice w 31 28 with
  | 1 => decodeZ w
  | 2 => decodeD .sel w
  | 3 => decodeD .desel w
  | 4 => decodeB w
  | 5 => decodeR w
  | 6 => decodeA w
  | _ => none

/-- The command word with these fields (R107): `OP`, `BCM1`, `DEV`, `RW`, `ADDR` and the low byte. The fields do not
overlap, so their sum is their bitwise OR. -/
def wordOf (op bcm1 dev rw addr low : Nat) : Word :=
  BitVec.ofNat 32 (op * 2 ^ 28 + bcm1 * 2 ^ 17 + dev * 2 ^ 16 + rw * 2 ^ 15 + addr * 2 ^ 8 + low)

/-- The encoder (R108 to R112, R114, R115). -/
def encode : Instr → Word
  | .init => wordOf 1 0 0 0 0 0
  | .sel d => wordOf 2 0 d.code 0 0 0
  | .desel d => wordOf 3 0 d.code 0 0 0
  | .xfer b => wordOf 4 0 0 0 0 b.toNat
  | .wrreg d a v => wordOf 5 0 d.code 0 a.toNat v.toNat
  | .rdreg d a bc => wordOf 5 (bc - 1) d.code 1 a.toNat 0
  | .rdax => wordOf 6 0 0 0 0 0
  | .rday => wordOf 6 0 0 0 0 1
  | .rdaz => wordOf 6 0 0 0 0 2
  | .rdgx => wordOf 6 0 0 0 0 3
  | .rdgy => wordOf 6 0 0 0 0 4
  | .rdgz => wordOf 6 0 0 0 0 5
  | .rdmx => wordOf 6 0 0 0 0 6
  | .rdmy => wordOf 6 0 0 0 0 7
  | .rdmz => wordOf 6 0 0 0 0 8
  | .rdtemp => wordOf 6 0 0 0 0 9
  | .rdid d => wordOf 6 0 d.code 0 0 10

/-- The instruction the decoder reads from a table row's word: `nbits` bits of `w`, every bit above them 0. -/
def decodeTableWord (nbits w : Nat) : Option Instr :=
  if nbits ≤ 32 then decode (BitVec.ofNat 32 (w % 2 ^ nbits)) else none

/-- A row of spec/opcode_table.json: its mnemonic and its match and mask. -/
structure OpcodeRow where
  mnemonic : String
  value : Word
  mask : Word
deriving DecidableEq, Repr

/-- "a word is the command of the one row of `opcode_table.json` for which `CW & mask = match`" (R116). -/
abbrev OpcodeRow.Matches (r : OpcodeRow) (w : Word) : Prop := w &&& r.mask = r.value

/-- spec/opcode_table.json: the rows with operands. -/
def operandRows : List OpcodeRow :=
  [⟨"SEL", 0x20000000, 0xFFFEFFFF⟩, ⟨"DESEL", 0x30000000, 0xFFFEFFFF⟩, ⟨"XFER", 0x40000000, 0xFFFFFF00⟩,
   ⟨"WRREG", 0x50000000, 0xFFFE8000⟩, ⟨"RDREG", 0x50008000, 0xFFFC80FF⟩, ⟨"RDID", 0x6000000A, 0xFFFEFFFF⟩]

/-- spec/opcode_table.json: the rows without operands. -/
def fixedRows : List OpcodeRow :=
  [⟨"INIT", 0x10000000, 0xFFFFFFFF⟩, ⟨"RDAX", 0x60000000, 0xFFFFFFFF⟩, ⟨"RDAY", 0x60000001, 0xFFFFFFFF⟩,
   ⟨"RDAZ", 0x60000002, 0xFFFFFFFF⟩, ⟨"RDGX", 0x60000003, 0xFFFFFFFF⟩, ⟨"RDGY", 0x60000004, 0xFFFFFFFF⟩,
   ⟨"RDGZ", 0x60000005, 0xFFFFFFFF⟩, ⟨"RDMX", 0x60000006, 0xFFFFFFFF⟩, ⟨"RDMY", 0x60000007, 0xFFFFFFFF⟩,
   ⟨"RDMZ", 0x60000008, 0xFFFFFFFF⟩, ⟨"RDTEMP", 0x60000009, 0xFFFFFFFF⟩]

/-- spec/opcode_table.json, all 17 rows. -/
def opcodeTable : List OpcodeRow := operandRows ++ fixedRows

end Sys2Proof
end

