-- ==== Sys2Proof/Machine/Tables.lean ====
section
/-! DEFINITION. The constants of the block, which "no command can change" and reset does not touch (10_state.md R33):
the register map, the accessor table, the scale table, the INIT script. -/

namespace Sys2Proof.Machine

/-- `DUMMY`, the byte sent while reading data (00_scope.md R5). -/
def dummy : Byte := 0x00

/-- `READ_FLAG` (00_scope.md R5): bit 7 of the address byte of a read. -/
def readFlag : Byte := 0x80

/-- The source's access column (20_memory.md R61): `R` = the block only reads it, `W` = the block only writes it. -/
inductive Access where
  | r
  | w
deriving DecidableEq, Repr

/-- A row of the register map (20_memory.md R61). -/
structure MapRow where
  symbol : String
  dev : Device
  addr : Addr
  access : Access
deriving DecidableEq, Repr

/-- The register map of `AG` (20_memory.md R61). -/
def registerMapAg : List MapRow :=
  [⟨"WHO_AM_I", .ag, 0x0F, .r⟩, ⟨"CTRL_REG1_G", .ag, 0x10, .w⟩,
   ⟨"OUT_TEMP_L", .ag, 0x15, .r⟩, ⟨"OUT_TEMP_H", .ag, 0x16, .r⟩,
   ⟨"OUT_X_L_G", .ag, 0x18, .r⟩, ⟨"OUT_X_H_G", .ag, 0x19, .r⟩,
   ⟨"OUT_Y_L_G", .ag, 0x1A, .r⟩, ⟨"OUT_Y_H_G", .ag, 0x1B, .r⟩,
   ⟨"OUT_Z_L_G", .ag, 0x1C, .r⟩, ⟨"OUT_Z_H_G", .ag, 0x1D, .r⟩,
   ⟨"CTRL_REG5_XL", .ag, 0x1F, .w⟩, ⟨"CTRL_REG6_XL", .ag, 0x20, .w⟩,
   ⟨"OUT_X_L_XL", .ag, 0x28, .r⟩, ⟨"OUT_X_H_XL", .ag, 0x29, .r⟩,
   ⟨"OUT_Y_L_XL", .ag, 0x2A, .r⟩, ⟨"OUT_Y_H_XL", .ag, 0x2B, .r⟩,
   ⟨"OUT_Z_L_XL", .ag, 0x2C, .r⟩, ⟨"OUT_Z_H_XL", .ag, 0x2D, .r⟩]

/-- The register map of `M` (20_memory.md R61). -/
def registerMapM : List MapRow :=
  [⟨"WHO_AM_I_M", .m, 0x0F, .r⟩, ⟨"CTRL_REG1_M", .m, 0x20, .w⟩,
   ⟨"CTRL_REG3_M", .m, 0x22, .w⟩, ⟨"CTRL_REG4_M", .m, 0x23, .w⟩,
   ⟨"OUT_X_L_M", .m, 0x28, .r⟩, ⟨"OUT_X_H_M", .m, 0x29, .r⟩,
   ⟨"OUT_Y_L_M", .m, 0x2A, .r⟩, ⟨"OUT_Y_H_M", .m, 0x2B, .r⟩,
   ⟨"OUT_Z_L_M", .m, 0x2C, .r⟩, ⟨"OUT_Z_H_M", .m, 0x2D, .r⟩]

/-- The register map of one sub-device. -/
def registerMap : Device → List MapRow
  | .ag => registerMapAg
  | .m => registerMapM

/-- The address a symbol of the register map names. -/
def addrOf (d : Device) (symbol : String) : Option Addr :=
  ((registerMap d).find? (fun r => r.symbol == symbol)).map MapRow.addr

/-- The default of `writable[d]`: "the addresses with access `W`" (20_memory.md R76). -/
def defaultWritable (d : Device) : List Addr :=
  ((registerMap d).filter (fun r => r.access == .w)).map MapRow.addr

/-- `WHOAMI[d]`, the expected identity byte, "not enforced" (00_scope.md R5, 60_exceptions.md R230): for the host. -/
def whoAmI : Device → Byte
  | .ag => 0x68
  | .m => 0x3D

/-- The scale kinds (42_accessors_scaling.md R181). -/
inductive ScaleKind where
  | acc
  | gyr
  | mag
  | tmp
deriving DecidableEq, Repr

/-- The numerators of `SCALE` (R181). -/
def ScaleKind.num : ScaleKind → Int
  | .acc => 61
  | .gyr => 875
  | .mag => 14
  | .tmp => 10

/-- The denominators of `SCALE` (R181). -/
def ScaleKind.den : ScaleKind → Int
  | .acc => 1000
  | .gyr => 100
  | .mag => 100
  | .tmp => 16

/-- A row of `ACCTAB` for a scaled accessor (42_accessors_scaling.md R180): every one reads 2 bytes. -/
structure AccessorRow where
  dev : Device
  addr : Addr
  kind : ScaleKind
deriving DecidableEq, Repr

/-- `ACCTAB`, rows `FN` 0 to 9 (R180). RDID has its device as an operand and is no row here. -/
def acctab : Instr → Option AccessorRow
  | .rdax => some ⟨.ag, 0x28, .acc⟩
  | .rday => some ⟨.ag, 0x2A, .acc⟩
  | .rdaz => some ⟨.ag, 0x2C, .acc⟩
  | .rdgx => some ⟨.ag, 0x18, .gyr⟩
  | .rdgy => some ⟨.ag, 0x1A, .gyr⟩
  | .rdgz => some ⟨.ag, 0x1C, .gyr⟩
  | .rdmx => some ⟨.m, 0x28, .mag⟩
  | .rdmy => some ⟨.m, 0x2A, .mag⟩
  | .rdmz => some ⟨.m, 0x2C, .mag⟩
  | .rdtemp => some ⟨.ag, 0x15, .tmp⟩
  | .init => none
  | .sel _ => none
  | .desel _ => none
  | .xfer _ => none
  | .wrreg _ _ _ => none
  | .rdreg _ _ _ => none
  | .rdid _ => none

/-- The address of the identity register on both sub-devices (R180, row `FN` 10). -/
def identityAddr : Addr := 0x0F

/-- An entry of the INIT script with its data byte. -/
structure ScriptEntry where
  dev : Device
  addr : Addr
  data : Byte

/-- `INIT_SCRIPT` with `INIT_DATA` (41_register_protocol.md R166). -/
def initScript : List ScriptEntry :=
  [⟨.ag, 0x10, Config.initData 0⟩, ⟨.ag, 0x20, Config.initData 1⟩, ⟨.ag, 0x1F, Config.initData 2⟩,
   ⟨.m, 0x22, Config.initData 3⟩, ⟨.m, 0x20, Config.initData 4⟩, ⟨.m, 0x23, Config.initData 5⟩]

end Sys2Proof.Machine
end

