-- ==== Sys2Proof/Machine/Operands.lean ====
section
/-! DEFINITION. The operand forms: the transaction descriptor and the bytes it gives (10_state.md R32, 30_encoding.md
R101 to R103), the order of bits in a transfer (40_transport.md R144), the assembler (41_register_protocol.md R162) and
the scaling engine (42_accessors_scaling.md R181). -/

namespace Sys2Proof.Machine

/-- A flag as a number. -/
def flagBit (b : Bool) : Nat := if b then 1 else 0

/-- The bits of the transaction descriptor (10_state.md R32): `DEV` = `TD[18]`, `BCM1` = `TD[17]`, `AINC` = `TD[16]`,
`RW` = `TD[15]`, `ADDR` = `TD[14:8]`, `DATA` = `TD[7:0]`. -/
def Td.word (td : Td) : BitVec 19 :=
  BitVec.ofNat 19 (td.dev.code * 2 ^ 18 + flagBit td.bcm1 * 2 ^ 17 + flagBit td.ainc * 2 ^ 16 + flagBit td.rw * 2 ^ 15
    + td.addr.toNat * 2 ^ 8 + td.data.toNat)

/-- The address byte sent on the wire, `{TD.RW, TD.ADDR}` = `TD[15:8]` (30_encoding.md R101, R103). -/
def Td.addrByte (td : Td) : Byte := BitVec.ofBool td.rw ++ td.addr

/-- The second byte sent on the wire, `TD.DATA` = `TD[7:0]` (30_encoding.md R103). -/
def Td.dataByte (td : Td) : Byte := td.data

/-- The number of transfers of the frame a descriptor describes (30_encoding.md R105). -/
def Td.transfers (td : Td) : Nat := if td.rw && td.bcm1 then 3 else 2

/-- The levels on a data line in the eight bit times of a transfer, first bit time first: bit 7 down to bit 0
(40_transport.md R144). -/
def wireBits (b : Byte) : List Bool := [b[7], b[6], b[5], b[4], b[3], b[2], b[1], b[0]]

/-- The byte of eight levels sampled in the order of the bit times: the first becomes bit 7 (40_transport.md R144). -/
def sampleBits (bits : List Bool) : Byte := bits.foldl (fun r b => (r <<< 1) ||| (if b then 1 else 0)) 0

/-- `assemble` (41_register_protocol.md R162): one byte zero-extended, or two bytes, low byte first. -/
def assemble (bc : Nat) (rx0 rx1 : Byte) : Half :=
  if bc = 2 then (rx1.setWidth 16 <<< 8) ||| rx0.setWidth 16 else rx0.setWidth 16

/-- `RDXBUF <- zext_16(rx0)` (41_register_protocol.md R161 step 3). -/
def lowStage (rx0 : Byte) : Half := rx0.setWidth 16

/-- `RDXBUF[15:8] <- rx1` (41_register_protocol.md R161 step 4). -/
def highStage (old : Half) (rx1 : Byte) : Half := (rx1.setWidth 16 <<< 8) ||| (old &&& 0x00FF)

/-- `sint16` (00_scope.md R6, 42_accessors_scaling.md R193). -/
def sint16 (raw : Half) : Int := raw.toInt

/-- The exact product `p` (42_accessors_scaling.md R194). -/
def product (k : ScaleKind) (raw : Half) : Int := sint16 raw * k.num

/-- The quotient `q`, truncating toward zero (42_accessors_scaling.md R195). -/
def quotient (k : ScaleKind) (raw : Half) : Int := (product k raw).tdiv k.den

/-- `NARROW` = wrap: `low16(q)` (00_scope.md R5, R6; 42_accessors_scaling.md R196). -/
def narrow (q : Int) : Half := BitVec.ofInt 16 q

/-- The scaling engine (42_accessors_scaling.md R181). -/
def scale (k : ScaleKind) (raw : Half) : Half := narrow (quotient k raw)

end Sys2Proof.Machine
end

