-- ==== Sys2Proof/Machine/Flags.lean ====
section
/-! DEFINITION. The flags and control registers as words and the tests made on them (10_state.md R26 to R31), and the
ports that carry them (R39, R40). No command reads or writes a control register as a word (R31). -/

namespace Sys2Proof.Machine

/-- A line's level as a bit: low = 0, high = 1 (10_state.md R29). -/
def Level.bit : Level → Nat
  | .low => 0
  | .high => 1

/-- `STATUS` (control register 2): `BUSY` bit 0, `INITD` bit 1, `ILL` bit 2 (10_state.md R31). -/
def State.statusWord (s : State) : Nat := flagBit s.busy + flagBit s.initd * 2 + flagBit s.ill * 4

/-- `CSOUT` (control register 1): `AG_N` bit 0, `M_N` bit 1 (10_state.md R29). -/
def State.csoutWord (s : State) : Nat := Level.bit s.agN + Level.bit s.mN * 2

/-- `CFG` (control register 0): `MSTR` bit 0, `MSBF` bit 1, `AINC` bit 2, `CKDIV` from bit 8 (10_state.md R30). -/
def State.cfgWord (s : State) : Nat :=
  flagBit s.mstr + flagBit s.msbf * 2 + flagBit s.ainc * 4 + s.ckdiv * 2 ^ 8

/-- The shift engine is configured: `STATUS.INITD` = 1 (70_reset_and_hazards.md R255) with `CFG.MSTR` and `CFG.MSBF` = 1
(10_state.md R30). -/
def State.configured (s : State) : Bool := s.initd && s.mstr && s.msbf

/-- The command port is ready "only when `CMD = none`" (10_state.md R25, R40). -/
def State.cmdReady (s : State) : Bool := s.cmd.isNone

/-- The output `cs_ag_n` or `cs_m_n` (10_state.md R39). -/
def State.line (s : State) : Device → Level
  | .ag => s.agN
  | .m => s.mN

/-- The response port (10_state.md R40, 30_encoding.md R119): `none` without a completion, else the completion with
`RES` where it has a value. -/
def State.response (s : State) : Option (Option Half) :=
  if s.strobe then some (if s.hasValue then some s.res else none) else none

end Sys2Proof.Machine
end

