-- ==== Sys2Proof/Machine/Ops.lean ====
section
/-! DEFINITION. The shared operations: driving a chip-select line, the byte transfer with its wait, loading the
transaction descriptor, the bus steps of a command run by the sequencer, acceptance and completion, the hang, the
illegal word, and reset. The block raises no exception and has no trap entry and no trap return (60_exceptions.md R220,
R225, R228), so there is no operation that takes one: the nearest things the spec has are the hang (`State.transfer`
stopping), the illegal word (`State.takeIllegal`) and reset (`State.takeReset`). -/

namespace Sys2Proof.Machine

/-- The lines as the devices see them: the ports carry `CSOUT` (10_state.md R39). -/
def State.lines (s : State) : Lines := ⟨s.agN, s.mN⟩

/-- `CsDrive(d, v)` (00_scope.md R8, 10_state.md R29, 40_transport.md R141, R142): the one `CSOUT` bit, its line, and the
event, also where the line has that level already. -/
def State.csDrive (d : Device) (v : Level) (s : State) : State :=
  { s with
    agN := if d = .ag then v else s.agN
    mN := if d = .m then v else s.mN
    trace := s.trace ++ [.cs d v]
    env := s.env.onCs s.lines d v }

/-- The first bus step of INIT (41_register_protocol.md R165): the configuration and its event. -/
def State.configure (s : State) : State :=
  { s with
    mstr := true
    msbf := true
    ckdiv := Config.bitclkDiv
    ainc := true
    trace := s.trace ++ [.cfgw true true Config.bitclkDiv true] }

/-- `Transfer(b)` starts: `TXBUF <- b`, `STATUS.BUSY <- 1` (40_transport.md R143). -/
def State.startShift (b : Byte) (s : State) : State := { s with txbuf := b, busy := true, draws := s.draws + 1 }

/-- The shift engine is done: `RXBUF` holds the bits of `rx` sampled in the order of the bit times (40_transport.md
R144), `STATUS.BUSY <- 0`, and the event carries both bytes (R143). -/
def State.endShift (b rx : Byte) (s : State) : State :=
  { s with
    rxbuf := sampleBits (wireBits rx)
    busy := false
    trace := s.trace ++ [.xfer b (sampleBits (wireBits rx))] }

/-- How a bus step leaves the sequencer. -/
inductive Progress where
  /-- The step is done and the command goes on. -/
  | running (s : State)
  /-- The command goes no further: its transfer never completes, or reset abandoned it. -/
  | stopped (s : State)
deriving DecidableEq, Repr

/-- `Transfer(b)` (40_transport.md R143, R145): where the environment never completes the transfer the wait never ends,
so `STATUS.BUSY` stays 1, `RXBUF` keeps its value and nothing is appended (60_exceptions.md R226). -/
def State.transfer (b : Byte) (s : State) : Progress :=
  match s.env.answer s.lines b s.draws with
  | ⟨some rx, e⟩ => .running { (s.startShift b).endShift b rx with env := e }
  | ⟨none, e⟩ => .stopped { s.startShift b with env := e }

/-- The byte of a transfer: from the descriptor (30_encoding.md R103) or given. -/
inductive TxByte where
  /-- `TD[15:8]`. -/
  | addrByte
  /-- `TD[7:0]`. -/
  | dataByte
  | given (b : Byte)
deriving DecidableEq, Repr

/-- The byte a transfer sends. -/
def TxByte.value (s : State) : TxByte → Byte
  | .addrByte => s.td.addrByte
  | .dataByte => s.td.dataByte
  | .given b => b

/-- The actions of the block that append one event (00_scope.md R9). -/
inductive BusOp where
  | cfgw
  | cs (d : Device) (v : Level)
  | xfer (t : TxByte)
deriving DecidableEq, Repr

/-- The assignments that take no bus step of their own (10_state.md R24). -/
inductive Assign where
  /-- `TD <- ...` with `AINC` copied from `CFG.AINC` (41_register_protocol.md R160, R161). -/
  | loadTd (d : Device) (bcm1 rw : Bool) (a : Addr) (v : Byte)
  /-- `RDXBUF <- zext_16(rx0)`. -/
  | rdxLow
  /-- `RDXBUF[15:8] <- rx1`. -/
  | rdxHigh
  /-- `STATUS.INITD <- 1` (41_register_protocol.md R165). -/
  | setInitd
deriving DecidableEq, Repr

/-- One bus step of a command with the assignments that "happen together with" it (10_state.md R24). -/
structure BusStep where
  op : BusOp
  after : List Assign
deriving DecidableEq, Repr

/-- What a command returns (00_scope.md R8, 10_state.md R23). -/
inductive Reply where
  /-- `Return()`. -/
  | noValue
  /-- `Return(zext_16(r))`, `r` the byte received. -/
  | received
  /-- `Return(RDXBUF)`. -/
  | raw
  /-- `Return(scale(k, RDXBUF))`. -/
  | scaled (k : ScaleKind)
deriving DecidableEq, Repr

/-- A command for the sequencer: the assignments made at acceptance, the bus steps in order, what it returns. -/
structure Plan where
  onAccept : List Assign
  steps : List BusStep
  reply : Reply
deriving DecidableEq, Repr

/-- One bus action. -/
def State.perform (o : BusOp) (s : State) : Progress :=
  match o with
  | .cfgw => .running s.configure
  | .cs d v => .running (s.csDrive d v)
  | .xfer t => s.transfer (t.value s)

/-- One assignment. -/
def State.assign (s : State) : Assign → State
  | .loadTd d bcm1 rw a v => { s with td := ⟨d, bcm1, s.ainc, rw, a, v⟩ }
  | .rdxLow => { s with rdxbuf := lowStage s.rxbuf }
  | .rdxHigh => { s with rdxbuf := highStage s.rdxbuf s.rxbuf }
  | .setInitd => { s with initd := true }

/-- Several assignments in order. -/
def State.assigns (as : List Assign) (s : State) : State := as.foldl State.assign s

/-- The reset input is asserted now. -/
def State.resetNow (s : State) : Bool := s.resets.head? == some 0

/-- The reset input's schedule after `n` ticks. -/
def tickBy (n : Nat) : List Nat → List Nat
  | [] => []
  | k :: rest => (k - n) :: rest

/-- The reset input is not asserted before any of the next `n` ticks. -/
def State.quietFor (n : Nat) (s : State) : Bool :=
  match s.resets with
  | [] => true
  | k :: _ => decide (n ≤ k)

/-- One tick passes. -/
def State.tick (s : State) : State := { s with resets := tickBy 1 s.resets }

/-- `SEQ <- SEQ + 1` with a completed bus step (10_state.md R24). -/
def State.countStep (s : State) : State := { s.tick with seq := s.seq + 1 }

/-- The devices see the lines that were low rise (70_reset_and_hazards.md R250). -/
def State.raiseLines (s : State) : Env :=
  let e := if s.agN = .low then s.env.onCs s.lines .ag .high else s.env
  if s.mN = .low then e.onCs s.lines .m .high else e

/-- Reset (70_reset_and_hazards.md R250, R251; 10_state.md R37, R38): every piece of the block's state takes its reset
value, whatever the block is doing; the host, the devices and the reset input itself are not the block's. -/
def State.takeReset (s : State) : State :=
  { State.reset with
    host := s.host
    hostFault := s.hostFault
    resets := s.resets.tail
    env := s.raiseLines
    draws := s.draws }

/-- One bus step of the sequencer; a reset asserted before it wins (60_exceptions.md R224). -/
def State.busStep (b : BusStep) (s : State) : Progress :=
  if s.resetNow then .stopped s.takeReset
  else match s.perform b.op with
    | .running t => .running (t.countStep.assigns b.after)
    | .stopped t => .stopped t

/-- `Return(v)` and `Return()` (00_scope.md R8, 10_state.md R23, R24): `RES` is written where there is a value, the
response port signals the completion, `CMD <- none`, `SEQ <- 0`. -/
def State.complete (r : Reply) (s : State) : State :=
  { s with
    res := match r with
      | .noValue => s.res
      | .received => s.rxbuf.setWidth 16
      | .raw => s.rdxbuf
      | .scaled k => scale k s.rdxbuf
    seq := 0
    cmd := none
    strobe := true
    hasValue := match r with
      | .noValue => false
      | .received => true
      | .raw => true
      | .scaled _ => true }

/-- The sequencer runs bus steps in order to the completion of the command, or until one stops (10_state.md R24). -/
def State.runSteps (r : Reply) : List BusStep → State → State
  | [], s => s.complete r
  | b :: bs, s =>
    match s.busStep b with
    | .running t => t.runSteps r bs
    | .stopped t => t

/-- Acceptance (10_state.md R24, R25): `CMD <- the command`, `SEQ <- 0`, and the assignments before the first bus
step. The response port's strobe ends. -/
def State.accept (i : Instr) (p : Plan) (s : State) : State :=
  { s with cmd := some i, seq := 0, strobe := false, hasValue := false }.assigns p.onAccept

/-- Run a command that needs no configuration. A block that is not idle accepts nothing (10_state.md R25): "the command
port is not ready", so nothing happens. -/
def State.runAlways (i : Instr) (p : Plan) (s : State) : Host.Outcome State Fault Refusal :=
  if s.cmd = none then .next ((s.accept i p).runSteps p.reply p.steps) else .next s

/-- Run a command that needs the shift engine configured (70_reset_and_hazards.md R255; 60_exceptions.md R224 gives the
order of the checks). -/
def State.runConfigured (i : Instr) (p : Plan) (s : State) : Host.Outcome State Fault Refusal :=
  if s.cmd = none ∧ s.configured = false then .refused .notInitialised else s.runAlways i p

/-- A command taken up at bus step `SEQ` runs its remaining bus steps: "the next bus step to perform is the
`(SEQ+1)`-th of that order" (10_state.md R24). -/
def State.resume (p : Plan) (s : State) : State := s.runSteps p.reply (p.steps.drop s.seq)

/-- A step in which the block makes no bus step: idle with nothing presented, or waiting for ever inside a transfer
(60_exceptions.md R226). The response port's strobe ends. -/
def State.wait (s : State) : State := { s.tick with strobe := false, hasValue := false }

/-- An illegal word (30_encoding.md R117, 60_exceptions.md R222): no bus step, `STATUS.ILL <- 1`, completion without a
value, and the host program is at fault. -/
def State.takeIllegal (s : State) : State :=
  { s with ill := true, hostFault := true, strobe := true, hasValue := false }

/-- The host presents its next word and the port takes it: "A command word is consumed once, at acceptance"
(20_memory.md R83). It takes a tick, so that a reset may fall before it, with the word still to be presented, or after it
and before the first bus step, with the word consumed (70_reset_and_hazards.md R250, log entry 9). -/
def State.take (rest : List Word) (s : State) : State := { s.tick with host := rest }

/-- The register transaction's descriptor for a write (41_register_protocol.md R160). -/
def loadWrite (d : Device) (a : Addr) (v : Byte) : Assign := .loadTd d false false a v

/-- The register transaction's descriptor for a read of `bc` bytes (41_register_protocol.md R161). -/
def loadRead (d : Device) (a : Addr) (bc : Nat) : Assign := .loadTd d (bc == 2) true a dummy

/-- The four bus steps of `MemWrite(d, a, 1, v)` (41_register_protocol.md R160), with the assignments that ride on the
last one. -/
def writeFrame (d : Device) (after : List Assign) : List BusStep :=
  [⟨.cs d .low, []⟩, ⟨.xfer .addrByte, []⟩, ⟨.xfer .dataByte, []⟩, ⟨.cs d .high, after⟩]

/-- The bus steps of `MemRead(d, a, bc)` (41_register_protocol.md R161): four, or five for two bytes. -/
def readFrame (d : Device) (bc : Nat) : List BusStep :=
  if bc = 2 then
    [⟨.cs d .low, []⟩, ⟨.xfer .addrByte, []⟩, ⟨.xfer .dataByte, [.rdxLow]⟩, ⟨.xfer (.given dummy), [.rdxHigh]⟩,
     ⟨.cs d .high, []⟩]
  else
    [⟨.cs d .low, []⟩, ⟨.xfer .addrByte, []⟩, ⟨.xfer .dataByte, [.rdxLow]⟩, ⟨.cs d .high, []⟩]

end Sys2Proof.Machine
end

