-- ==== Sys2Proof/Machine/Accessors.lean ====
section
/-! DEFINITION. The typed accessors RDAX to RDTEMP and RDID (42_accessors_scaling.md). Each is one read transaction followed
by one pass through the scaling engine, or none for RDID (R199). -/

namespace Sys2Proof.Machine

/-- A scaled accessor (R182 to R191): `MemRead(d, a, 2)`, `Return(scale(k, RDXBUF))`. -/
def scaledRead (d : Device) (a : Addr) (k : ScaleKind) : Plan where
  onAccept := [loadRead d a 2]
  steps := readFrame d 2
  reply := .scaled k

/-- RDAX (R182), acceleration, X axis: `MemRead(AG, 0x28, 2)`, `Return(scale(ACC, RDXBUF))`. -/
def planRdax : Plan := scaledRead .ag 0x28 .acc

/-- RDAY (R183), acceleration, Y axis: `MemRead(AG, 0x2A, 2)`, `Return(scale(ACC, RDXBUF))`. -/
def planRday : Plan := scaledRead .ag 0x2A .acc

/-- RDAZ (R184), acceleration, Z axis: `MemRead(AG, 0x2C, 2)`, `Return(scale(ACC, RDXBUF))`. -/
def planRdaz : Plan := scaledRead .ag 0x2C .acc

/-- RDGX (R185), angular rate, X axis: `MemRead(AG, 0x18, 2)`, `Return(scale(GYR, RDXBUF))`. -/
def planRdgx : Plan := scaledRead .ag 0x18 .gyr

/-- RDGY (R186), angular rate, Y axis: `MemRead(AG, 0x1A, 2)`, `Return(scale(GYR, RDXBUF))`. -/
def planRdgy : Plan := scaledRead .ag 0x1A .gyr

/-- RDGZ (R187), angular rate, Z axis: `MemRead(AG, 0x1C, 2)`, `Return(scale(GYR, RDXBUF))`. -/
def planRdgz : Plan := scaledRead .ag 0x1C .gyr

/-- RDMX (R188), magnetic field, X axis: `MemRead(M, 0x28, 2)`, `Return(scale(MAG, RDXBUF))`. -/
def planRdmx : Plan := scaledRead .m 0x28 .mag

/-- RDMY (R189), magnetic field, Y axis: `MemRead(M, 0x2A, 2)`, `Return(scale(MAG, RDXBUF))`. -/
def planRdmy : Plan := scaledRead .m 0x2A .mag

/-- RDMZ (R190), magnetic field, Z axis: `MemRead(M, 0x2C, 2)`, `Return(scale(MAG, RDXBUF))`. -/
def planRdmz : Plan := scaledRead .m 0x2C .mag

/-- RDTEMP (R191), temperature: `MemRead(AG, 0x15, 2)`, `Return(scale(TMP, RDXBUF))`. -/
def planRdtemp : Plan := scaledRead .ag 0x15 .tmp

/-- RDID (R192): `MemRead(dev, 0x0F, 1)`, `Return(RDXBUF)`, neither reinterpreted nor scaled nor compared. -/
def planRdid (d : Device) : Plan where
  onAccept := [loadRead d identityAddr 1]
  steps := readFrame d 1
  reply := .raw

/-- RDAX (R182). -/
def execRdax (s : State) : Host.Outcome State Fault Refusal := s.runConfigured .rdax planRdax

/-- RDAY (R183). -/
def execRday (s : State) : Host.Outcome State Fault Refusal := s.runConfigured .rday planRday

/-- RDAZ (R184). -/
def execRdaz (s : State) : Host.Outcome State Fault Refusal := s.runConfigured .rdaz planRdaz

/-- RDGX (R185). -/
def execRdgx (s : State) : Host.Outcome State Fault Refusal := s.runConfigured .rdgx planRdgx

/-- RDGY (R186). -/
def execRdgy (s : State) : Host.Outcome State Fault Refusal := s.runConfigured .rdgy planRdgy

/-- RDGZ (R187). -/
def execRdgz (s : State) : Host.Outcome State Fault Refusal := s.runConfigured .rdgz planRdgz

/-- RDMX (R188). -/
def execRdmx (s : State) : Host.Outcome State Fault Refusal := s.runConfigured .rdmx planRdmx

/-- RDMY (R189). -/
def execRdmy (s : State) : Host.Outcome State Fault Refusal := s.runConfigured .rdmy planRdmy

/-- RDMZ (R190). -/
def execRdmz (s : State) : Host.Outcome State Fault Refusal := s.runConfigured .rdmz planRdmz

/-- RDTEMP (R191). -/
def execRdtemp (s : State) : Host.Outcome State Fault Refusal := s.runConfigured .rdtemp planRdtemp

/-- RDID (R192). -/
def execRdid (d : Device) (s : State) : Host.Outcome State Fault Refusal := s.runConfigured (.rdid d) (planRdid d)

end Sys2Proof.Machine
end

