-- ==== Sys2Proof/Machine/Register.lean ====
section
/-! DEFINITION. The register protocol commands WRREG, RDREG and INIT (41_register_protocol.md). -/

namespace Sys2Proof.Machine

/-- WRREG (R160): `MemWrite(dev, addr, 1, data)`, `Return()`. -/
def planWrreg (d : Device) (a : Addr) (v : Byte) : Plan where
  onAccept := [loadWrite d a v]
  steps := writeFrame d []
  reply := .noValue

/-- RDREG (R161): `v <- MemRead(dev, addr, bc)`, `Return(v)`. -/
def planRdreg (d : Device) (a : Addr) (bc : Nat) : Plan where
  onAccept := [loadRead d a bc]
  steps := readFrame d bc
  reply := .raw

/-- The bus steps of the script's writes (R165, R166). The descriptor of each write is loaded together with the bus step
before it (10_state.md R24), so the first one's rides on the configuration step; `STATUS.INITD <- 1` rides on the last. -/
def scriptSteps : List ScriptEntry → List BusStep
  | [] => []
  | [x] => writeFrame x.dev [.setInitd]
  | x :: y :: rest => writeFrame x.dev [loadWrite y.dev y.addr y.data] ++ scriptSteps (y :: rest)

/-- INIT (R165): the configuration, the six writes of the script, `STATUS.INITD <- 1`, `Return()`. -/
def planInit : Plan where
  onAccept := []
  steps := ⟨.cfgw, initScript.head?.toList.map (fun x => loadWrite x.dev x.addr x.data)⟩ :: scriptSteps initScript
  reply := .noValue

/-- INIT (R165): the one command with a meaning while `STATUS.INITD` = 0 (R167). -/
def execInit (s : State) : Host.Outcome State Fault Refusal := s.runAlways .init planInit

/-- WRREG (R160). -/
def execWrreg (d : Device) (a : Addr) (v : Byte) (s : State) : Host.Outcome State Fault Refusal :=
  s.runConfigured (.wrreg d a v) (planWrreg d a v)

/-- RDREG (R161). "No byte count other than 1 and 2 exists" (R162). -/
def execRdreg (d : Device) (a : Addr) (bc : Nat) (s : State) : Host.Outcome State Fault Refusal :=
  if LegalByteCount bc then s.runConfigured (.rdreg d a bc) (planRdreg d a bc) else .refused .illFormedByteCount

end Sys2Proof.Machine
end

