-- ==== Sys2Proof/Machine/Transport.lean ====
section
/-! DEFINITION. The transport commands SEL, DESEL and XFER (40_transport.md). -/

namespace Sys2Proof.Machine

/-- SEL (R141): `CsDrive(dev, 0)`, `Return()`. -/
def planSel (d : Device) : Plan where
  onAccept := []
  steps := [⟨.cs d .low, []⟩]
  reply := .noValue

/-- DESEL (R142): `CsDrive(dev, 1)`, `Return()`. -/
def planDesel (d : Device) : Plan where
  onAccept := []
  steps := [⟨.cs d .high, []⟩]
  reply := .noValue

/-- XFER (R143): `r <- Transfer(byte)`, `Return(zext_16(r))`. -/
def planXfer (b : Byte) : Plan where
  onAccept := []
  steps := [⟨.xfer (.given b), []⟩]
  reply := .received

/-- SEL (R141). -/
def execSel (d : Device) (s : State) : Host.Outcome State Fault Refusal := s.runConfigured (.sel d) (planSel d)

/-- DESEL (R142). -/
def execDesel (d : Device) (s : State) : Host.Outcome State Fault Refusal := s.runConfigured (.desel d) (planDesel d)

/-- XFER (R143). -/
def execXfer (b : Byte) (s : State) : Host.Outcome State Fault Refusal := s.runConfigured (.xfer b) (planXfer b)

end Sys2Proof.Machine
end

