-- ==== Sys2Proof/Machine/Dispatch.lean ====
section
/-! DEFINITION. exec: one arm per command, each a direct call of its meaning. -/

namespace Sys2Proof.Machine

def exec (i : Instr) (s : State) : Host.Outcome State Fault Refusal :=
  match i with
  | .init => Sys2Proof.Machine.execInit s
  | .sel d => Sys2Proof.Machine.execSel d s
  | .desel d => Sys2Proof.Machine.execDesel d s
  | .xfer b => Sys2Proof.Machine.execXfer b s
  | .wrreg d a v => Sys2Proof.Machine.execWrreg d a v s
  | .rdreg d a bc => Sys2Proof.Machine.execRdreg d a bc s
  | .rdax => Sys2Proof.Machine.execRdax s
  | .rday => Sys2Proof.Machine.execRday s
  | .rdaz => Sys2Proof.Machine.execRdaz s
  | .rdgx => Sys2Proof.Machine.execRdgx s
  | .rdgy => Sys2Proof.Machine.execRdgy s
  | .rdgz => Sys2Proof.Machine.execRdgz s
  | .rdmx => Sys2Proof.Machine.execRdmx s
  | .rdmy => Sys2Proof.Machine.execRdmy s
  | .rdmz => Sys2Proof.Machine.execRdmz s
  | .rdtemp => Sys2Proof.Machine.execRdtemp s
  | .rdid d => Sys2Proof.Machine.execRdid d s

end Sys2Proof.Machine
end

