-- ==== Sys2Proof/Machine/Sequencer.lean ====
section
/-! DEFINITION. The sequencer's view of a command: its plan, by which a command found in `CMD` goes on at `SEQ` (10_state.md
R24), and how the host's word is taken and loaded. -/

namespace Sys2Proof.Machine

/-- The bus steps and the reply of the command in `CMD` (10_state.md R24). -/
def planOf : Instr → Plan
  | .init => planInit
  | .sel d => planSel d
  | .desel d => planDesel d
  | .xfer b => planXfer b
  | .wrreg d a v => planWrreg d a v
  | .rdreg d a bc => planRdreg d a bc
  | .rdax => planRdax
  | .rday => planRday
  | .rdaz => planRdaz
  | .rdgx => planRdgx
  | .rdgy => planRdgy
  | .rdgz => planRdgz
  | .rdmx => planRdmx
  | .rdmy => planRdmy
  | .rdmz => planRdmz
  | .rdtemp => planRdtemp
  | .rdid d => planRdid d

/-- A block that is not idle, in one step: a transfer in progress never ends, since the environment has refused its
completion (60_exceptions.md R226); a command with no transfer in progress goes on at `SEQ` (10_state.md R24). -/
def State.goOn (i : Instr) (s : State) : State := if s.busy then s.wait else s.resume (planOf i)

/-- The boot of 70_reset_and_hazards.md R253 as far as a command other than INIT needs it to be accepted (40_transport.md
R140, 70_reset_and_hazards.md R255): `CFG` and `STATUS.INITD` as INIT leaves them (41_register_protocol.md R165). -/
def State.booted (s : State) : State :=
  { s with mstr := true, msbf := true, ckdiv := Config.bitclkDiv, ainc := true, initd := true }

/-- The machine with a word as the next one the host presents, and in a state in which the block accepts it at the very
next step: idle, no reset asserted, and booted where the word is a command other than INIT (log entry 7). -/
def State.present (w : Word) (s : State) : State :=
  let idle := { s with host := w :: s.host, cmd := none, seq := 0, busy := false, resets := [] }
  match decode w with
  | none => idle
  | some .init => idle
  | some _ => idle.booted

end Sys2Proof.Machine
end

