-- ==== Sys2Proof/Machine/Step.lean ====
section
/-! DEFINITION. One step of the machine. The block fetches no instructions (20_memory.md R83): a step takes the word the
host presents, decodes it and runs the command to its completion, or to the point where it hangs or is reset. -/

namespace Sys2Proof.Machine

/-- One step. Reset wins over everything (60_exceptions.md R224); a block that is not idle goes on (10_state.md R25); an
idle one takes the next word, which is decoded first (60_exceptions.md R224). DESIGN CHOICE: at which instants a reset
(70_reset_and_hazards.md R250) may fall is settled by the ticks of log entry 9: before a word is taken, between its
acceptance and the first bus step, between bus steps, and between steps; a transfer is not cut in the middle. -/
def step (s : State) : Host.Outcome State Fault Refusal :=
  if s.resetNow then .next s.takeReset
  else match s.cmd with
    | some i => .next (s.goOn i)
    | none =>
      match s.host with
      | [] => .next s.wait
      | w :: rest =>
        match decode w with
        | none => .next (s.take rest).takeIllegal
        | some i => exec i (s.take rest)

/-- The machine with that word stored where `step` takes its next command (log entry 7). -/
def State.withFetchWord (s : State) (nbits w : Nat) : State := s.present (BitVec.ofNat 32 (w % 2 ^ nbits))

end Sys2Proof.Machine
end

