-- ==== Sys2Proof/Machine/Assembler.lean ====
section
/-! DEFINITION. The assembler's textual form (30_encoding.md R120, R121): one command per line, a mnemonic in capitals, then
operands separated by commas; a semicolon starts a comment; numbers are decimal or 0x hexadecimal; an operand outside its
range is an assembly error and not an illegal word. A line is a list of characters. -/

namespace Sys2Proof.Machine

/-- What a line assembles to. -/
inductive AsmLine where
  /-- Nothing but blanks and a comment. -/
  | empty
  | command (i : Instr)
  /-- Not a line of the form of R120. -/
  | error
deriving DecidableEq, Repr

/-- A blank. -/
def isBlank (c : Char) : Bool := c == ' ' || c == '\t'

/-- A text without the blanks at its two ends. -/
def trim (t : List Char) : List Char := ((t.dropWhile isBlank).reverse.dropWhile isBlank).reverse

/-- The digits of the two number forms of R120, each at the place of its value. -/
def digitSigns : List Char := "0123456789ABCDEF".toList

/-- The value of a digit in base `base`: its place among the first `base` signs. A small letter counts as its capital
(log entry 22). -/
def digitValue (base : Nat) (c : Char) : Option Nat := (digitSigns.take base).idxOf? c.toUpper

/-- The digits of a number in base `base`, after the value `acc` so far. -/
def digits (base : Nat) : Nat → List Char → Option Nat
  | acc, [] => some acc
  | acc, c :: cs => (digitValue base c).bind (fun v => digits base (acc * base + v) cs)

/-- A number, decimal or 0x hexadecimal (R120). -/
def number : List Char → Option Nat
  | [] => none
  | ['0', 'x'] => none
  | '0' :: 'x' :: cs => digits 16 0 cs
  | cs => digits 10 0 cs

/-- A number below a bound (R120). -/
def numberBelow (bound : Nat) (t : List Char) : Option Nat :=
  match number t with
  | none => none
  | some n => if n < bound then some n else none

/-- `<dev>`: `AG` or `M`. -/
def devOperand : List Char → Option Device
  | ['A', 'G'] => some .ag
  | ['M'] => some .m
  | _ => none

/-- `<byte>` and `<data>`: 0 to 0xFF. -/
def byteOperand (t : List Char) : Option Byte := (numberBelow 256 t).map (BitVec.ofNat 8)

/-- `<addr>`: 0 to 0x7F. -/
def addrOperand (t : List Char) : Option Addr := (numberBelow 128 t).map (BitVec.ofNat 7)

/-- `<bc>`: `1` or `2`. -/
def bcOperand : List Char → Option Nat
  | ['1'] => some 1
  | ['2'] => some 2
  | _ => none

/-- The operands of a line, separated by commas, each without the blanks around it. -/
def operands (t : List Char) : List (List Char) :=
  if (trim t).isEmpty then [] else (t.splitOn ',').map trim

/-- The accessors without operands (R120). -/
def plainCommand (mnemonic : List Char) : Option Instr :=
  if mnemonic = "INIT".toList then some .init
  else if mnemonic = "RDAX".toList then some .rdax
  else if mnemonic = "RDAY".toList then some .rday
  else if mnemonic = "RDAZ".toList then some .rdaz
  else if mnemonic = "RDGX".toList then some .rdgx
  else if mnemonic = "RDGY".toList then some .rdgy
  else if mnemonic = "RDGZ".toList then some .rdgz
  else if mnemonic = "RDMX".toList then some .rdmx
  else if mnemonic = "RDMY".toList then some .rdmy
  else if mnemonic = "RDMZ".toList then some .rdmz
  else if mnemonic = "RDTEMP".toList then some .rdtemp
  else none

/-- The commands with a device as their one operand (R120). -/
def deviceCommand (mnemonic : List Char) (d : Device) : Option Instr :=
  if mnemonic = "SEL".toList then some (.sel d)
  else if mnemonic = "DESEL".toList then some (.desel d)
  else if mnemonic = "RDID".toList then some (.rdid d)
  else none

/-- The command of a mnemonic with its operands (R120). -/
def commandOf (mnemonic : List Char) (ops : List (List Char)) : Option Instr :=
  match ops with
  | [] => plainCommand mnemonic
  | [x] =>
    if mnemonic = "XFER".toList then (byteOperand x).map Instr.xfer
    else (devOperand x).bind (deviceCommand mnemonic)
  | [x, y, z] =>
    if mnemonic = "WRREG".toList then
      (devOperand x).bind (fun d => (addrOperand y).bind (fun a => (byteOperand z).map (Instr.wrreg d a)))
    else if mnemonic = "RDREG".toList then
      (devOperand x).bind (fun d => (addrOperand y).bind (fun a => (bcOperand z).map (Instr.rdreg d a)))
    else none
  | _ => none

/-- One line (R120). -/
def assembleLine (line : List Char) : AsmLine :=
  let code := trim (line.takeWhile (fun c => c != ';'))
  if code.isEmpty then .empty
  else
    match commandOf (code.takeWhile (fun c => !isBlank c)) (operands (code.dropWhile (fun c => !isBlank c))) with
    | none => .error
    | some i => .command i

/-- A program, one command per line, as command words; nothing where a line is an error. -/
def assembleProgram : List (List Char) → Option (List Word)
  | [] => some []
  | l :: ls =>
    match assembleLine l, assembleProgram ls with
    | .error, _ => none
    | _, none => none
    | .empty, some ws => some ws
    | .command i, some ws => some (encode i :: ws)

end Sys2Proof.Machine
end

