-- ==== Sys2Proof/Safety.lean ====
section
/-! DEFINITION. The terms in which claims are made: the named assumptions of the spec, the hang, chip-select exclusivity
along the trace, the invariant of the machine, and a safe state. -/

namespace Sys2Proof

/-- The number of transfers of a command (70_reset_and_hazards.md R265). -/
def Instr.transfers : Instr → Nat
  | .init => 12
  | .sel _ => 0
  | .desel _ => 0
  | .xfer _ => 1
  | .wrreg _ _ _ => 2
  | .rdreg _ _ bc => bc + 1
  | .rdax => 3
  | .rday => 3
  | .rdaz => 3
  | .rdgx => 3
  | .rdgy => 3
  | .rdgz => 3
  | .rdmx => 3
  | .rdmy => 3
  | .rdmz => 3
  | .rdtemp => 3
  | .rdid _ => 2

/-- The number of bus steps of a command (70_reset_and_hazards.md R265). -/
def Instr.busSteps : Instr → Nat
  | .init => 25
  | .sel _ => 1
  | .desel _ => 1
  | .xfer _ => 1
  | .wrreg _ _ _ => 4
  | .rdreg _ _ bc => bc + 3
  | .rdax => 5
  | .rday => 5
  | .rdaz => 5
  | .rdgx => 5
  | .rdgy => 5
  | .rdgz => 5
  | .rdmx => 5
  | .rdmy => 5
  | .rdmz => 5
  | .rdtemp => 5
  | .rdid _ => 4

/-- A command that selects its own device: WRREG, RDREG, INIT, RDAX to RDID (10_state.md R36). -/
def Instr.composite : Instr → Bool
  | .init => true
  | .sel _ => false
  | .desel _ => false
  | .xfer _ => false
  | .wrreg _ _ _ => true
  | .rdreg _ _ _ => true
  | .rdax => true
  | .rday => true
  | .rdaz => true
  | .rdgx => true
  | .rdgy => true
  | .rdgz => true
  | .rdmx => true
  | .rdmy => true
  | .rdmz => true
  | .rdtemp => true
  | .rdid _ => true

end Sys2Proof

namespace Sys2Proof.Machine

/-- `SHIFT_COMPLETES` for the next `k` transfers (60_exceptions.md R226), the draw number of the first being `n`: each of
them completes, whatever is sent. The reference device always completes one (20_memory.md R82). -/
def Env.completes : Nat → Nat → Env → Bool
  | _, _, .refDev _ => true
  | 0, _, .unconstrained _ => true
  | k + 1, n, .unconstrained [] => (Config.freeAnswer n).isSome && Env.completes k (n + 1) (.unconstrained [])
  | k + 1, n, .unconstrained (a :: rest) => a.isSome && Env.completes k (n + 1) (.unconstrained rest)

/-- The block accepts the command and gives it a meaning: it is idle (10_state.md R25), the shift engine is configured
unless the command is INIT (70_reset_and_hazards.md R255), and the term is a command. -/
def State.Accepts (s : State) (i : Instr) : Prop :=
  s.cmd = none ∧ i.WellFormed ∧ (i = .init ∨ s.configured = true)

/-- What the environment answers to the transfers of a frame on device `d` that sends `txs`: its line is driven low, the
bytes are exchanged, the other line keeps its level. The answer holds the bytes received and the environment before the
line rises. -/
def State.frameAnswers (d : Device) (txs : List Byte) (s : State) : Option (List Byte × Env) :=
  (s.env.onCs s.lines d .low).answers (s.lines.drive d .low) txs s.draws

/-- The address byte of a read (30_encoding.md R101). -/
def readByte (a : Addr) : Byte := a.setWidth 8 ||| readFlag

/-- The address byte of a write (30_encoding.md R101). -/
def writeByte (a : Addr) : Byte := a.setWidth 8

/-- Both lines deasserted, the launch premise of 92_eei_decisions.md D7. -/
def Lines.bothHigh : Lines := ⟨.high, .high⟩

/-- The line of `d` is the only one low. -/
def Lines.SelectsOnly (d : Device) (l : Lines) : Prop := l = Lines.bothHigh.drive d .low

/-- `DEV_ANSWERS(d)` (20_memory.md R71) in a read transaction of address `a` issued in state `s`, for register contents
`content` and a pointer that stands at `ptr k` for the `k`-th data byte, counted from 0: `d` is the only one selected, the
pointer starts at the address sent, and each data byte of a transaction of one or two is the content of the location its
pointer designates. -/
def DevAnswers (d : Device) (content : Addr → Byte) (ptr : Nat → Addr) (a : Addr) (s : State) : Prop :=
  (s.lines.drive d .low).SelectsOnly d ∧ ptr 0 = a ∧
  ∀ n x data e, n ≤ 2 → s.frameAnswers d (readByte a :: List.replicate n dummy) = some (x :: data, e) →
    ∀ k, k < n → data[k]? = some (content (ptr k))

/-- `DEV_AUTOINC(d)` (20_memory.md R73) for register contents `content`, in a 2-byte read of address `a` issued in state
`s`: where the policy is in force the second data byte is the content of the location `a + 1`. There is no such location
for 0x7F, where no device that answers satisfies it (R82). -/
def DevAutoinc (d : Device) (content : Addr → Byte) (a : Addr) (s : State) : Prop :=
  s.ainc = true →
    ∀ x lo hi e, s.frameAnswers d [readByte a, dummy, dummy] = some ([x, lo, hi], e) →
      ∃ next : Addr, next.toNat = a.toNat + 1 ∧ hi = content next

/-- Where a transfer stores on the reference device (20_memory.md R79): the one selected sub-device, in the data phase of
a write frame that has had no data byte, at its pointer where that is writable. -/
def RefDevice.storeAddr (x : RefDevice) : Option Addr :=
  if x.phase = .data ∧ x.rw = false ∧ x.wrote = false ∧ x.ptr ∈ x.writable then some x.ptr else none

/-- Where the next transfer stores, with the lines at `l`, at most one of them low (20_memory.md R79, R81). That it stores
nowhere in the cases the rules leave open (a second data byte of a write frame and what follows it, phase `IDLE`) is the
model's choice (log entry 6). -/
def Env.storeTarget (l : Lines) : Env → Option (Device × Addr)
  | .unconstrained _ => none
  | .refDev r =>
    if r.outside then none
    else match l.ag, l.m with
      | .low, .high => r.ag.storeAddr.map (fun a => (.ag, a))
      | .high, .low => r.m.storeAddr.map (fun a => (.m, a))
      | .high, .high => none
      | .low, .low => none

/-- The first bus steps of a command, without its completion. -/
def State.firstSteps : List BusStep → State → Progress
  | [], s => .running s
  | b :: bs, s =>
    match s.busStep b with
    | .running t => t.firstSteps bs
    | .stopped t => .stopped t

/-- The block's state is what 10_state.md R37 gives after reset, as far as it gives a value. -/
structure State.AfterReset (t : State) : Prop where
  cmd : t.cmd = none
  seq : t.seq = 0
  busy : t.busy = false
  initd : t.initd = false
  ill : t.ill = false
  agN : t.agN = .high
  mN : t.mN = .high
  mstr : t.mstr = false
  msbf : t.msbf = false
  ainc : t.ainc = false
  trace : t.trace = []

/-- The stuck state (60_exceptions.md R226): a command whose transfer never completes. -/
def State.Hung (s : State) : Prop := s.cmd ≠ none ∧ s.busy = true

/-- At most one line is low (10_state.md R36). -/
def Lines.Exclusive (l : Lines) : Prop := l.ag = .high ∨ l.m = .high

/-- The lines after some events (00_scope.md R9). -/
def Lines.after (l : Lines) : List Event → Lines
  | [] => l
  | .cs d v :: es => (l.drive d v).after es
  | .xfer _ _ :: es => l.after es
  | .cfgw _ _ _ _ :: es => l.after es

/-- An event without the byte received: what the block does on the bus. -/
def Event.shape : Event → Event
  | .cs d v => .cs d v
  | .xfer tx _ => .xfer tx 0
  | .cfgw a b c d => .cfgw a b c d

/-- The invariant of the machine: the reference device's registers are canonical; `SEQ` is 0 and no shift is in progress
when `CMD = none` (10_state.md R24, R26); a command left in `CMD` after a step is hung before its last bus step (R226);
`CFG` holds either its reset values or what INIT writes (10_state.md R30), and the latter once `STATUS.INITD` = 1; a
completion is signalled only by an idle block, and a value only with a completion (R40). -/
structure State.Inv (s : State) : Prop where
  memory : s.env.memWf = true
  idle : s.cmd = none → s.seq = 0 ∧ s.busy = false
  hung : ∀ i, s.cmd = some i → s.busy = true ∧ i.WellFormed ∧ s.seq < i.busSteps
  config : (s.mstr = false ∧ s.msbf = false ∧ s.ainc = false) ∨
    (s.mstr = true ∧ s.msbf = true ∧ s.ainc = true ∧ s.ckdiv = Config.bitclkDiv)
  initialised : s.initd = true → s.mstr = true
  completion : s.strobe = true → s.cmd = none
  value : s.hasValue = true → s.strobe = true

/-- A safe state: the host program is not at fault (60_exceptions.md R222), the block is not hung (R226), and at most one
sub-device is selected (70_reset_and_hazards.md R257). -/
def State.Safe (s : State) : Prop := s.hostFault = false ∧ ¬ s.Hung ∧ s.lines.Exclusive

end Sys2Proof.Machine
end

