-- ==== Sys2Proof/Certificates/Slice0/Obligations.lean ====
section
/-! DEFINITION. The statements about the model, from the spec's numbered rules, and the states they expect. -/

namespace Sys2Proof.Expect

open Sys2Proof.Machine

/-- The fields of a completed command that took `n` bus steps: idle again, the completion signalled, with a value or
without (10_state.md R23, R24, R40). `strobe`, `hasValue` and the tick of the reset input are the model's own bookkeeping (log
entries 2 and 9). -/
def finished (n : Nat) (value : Bool) (s : State) : State :=
  { s with seq := 0, cmd := none, strobe := true, hasValue := value, resets := tickBy n s.resets }

/-- The line of one device driven, once, with its event (10_state.md R29). -/
def driven (d : Device) (v : Level) (s : State) : State :=
  { s with
    agN := if d = .ag then v else s.agN
    mN := if d = .m then v else s.mN
    trace := s.trace ++ [.cs d v]
    env := s.env.onCs s.lines d v }

/-- The state after WRREG (41_register_protocol.md R160): `x` and `y` are the bytes received and ignored, `e` is the
environment before the line rises. -/
def written (d : Device) (a : Addr) (v x y : Byte) (e : Env) (s : State) : State :=
  finished 4 false
    { s with
      txbuf := v
      rxbuf := y
      busy := false
      agN := if d = .ag then .high else s.agN
      mN := if d = .m then .high else s.mN
      td := ⟨d, false, s.ainc, false, a, v⟩
      trace := s.trace ++ [.cs d .low, .xfer (writeByte a) x, .xfer v y, .cs d .high]
      env := e.onCs (s.lines.drive d .low) d .high
      draws := s.draws + 2 }

/-- The state after a 1-byte read (41_register_protocol.md R161) that received `x` and then `lo`. -/
def readOne (d : Device) (a : Addr) (x lo : Byte) (e : Env) (s : State) : State :=
  finished 4 true
    { s with
      txbuf := 0x00
      rxbuf := lo
      busy := false
      rdxbuf := lo.setWidth 16
      res := lo.setWidth 16
      agN := if d = .ag then .high else s.agN
      mN := if d = .m then .high else s.mN
      td := ⟨d, false, s.ainc, true, a, 0x00⟩
      trace := s.trace ++ [.cs d .low, .xfer (readByte a) x, .xfer 0x00 lo, .cs d .high]
      env := e.onCs (s.lines.drive d .low) d .high
      draws := s.draws + 2 }

/-- The state after a 2-byte read (41_register_protocol.md R161) that received `x`, `lo` and `hi` and returned `v`. -/
def readTwo (d : Device) (a : Addr) (x lo hi : Byte) (v : Half) (e : Env) (s : State) : State :=
  finished 5 true
    { s with
      txbuf := 0x00
      rxbuf := hi
      busy := false
      rdxbuf := (hi.setWidth 16 <<< 8) ||| lo.setWidth 16
      res := v
      agN := if d = .ag then .high else s.agN
      mN := if d = .m then .high else s.mN
      td := ⟨d, true, s.ainc, true, a, 0x00⟩
      trace := s.trace ++ [.cs d .low, .xfer (readByte a) x, .xfer 0x00 lo, .xfer 0x00 hi, .cs d .high]
      env := e.onCs (s.lines.drive d .low) d .high
      draws := s.draws + 3 }

/-- A scaled accessor reads address `a` of device `d` and returns the reading scaled by `k`, in every state in which the
block accepts it, no reset comes and the environment completes the three transfers. (`draws` and the tick of the reset
input are the model's own, log entries 4 and 9.) -/
def ReadsScaled (i : Instr) (d : Device) (a : Addr) (k : ScaleKind) : Prop :=
  ∀ s x lo hi e, s.Accepts i → s.quietFor 5 = true →
    s.frameAnswers d [readByte a, 0x00, 0x00] = some ([x, lo, hi], e) →
      exec i s = .next (readTwo d a x lo hi (scale k ((hi.setWidth 16 <<< 8) ||| lo.setWidth 16)) e s)

/-- The events of INIT (41_register_protocol.md R165, R166), `rx k` being the byte received in its `k`-th transfer. -/
def initTrace (rx : Fin 12 → Byte) : List Event :=
  [.cfgw true true Config.bitclkDiv true,
   .cs .ag .low, .xfer 0x10 (rx 0), .xfer (Config.initData 0) (rx 1), .cs .ag .high,
   .cs .ag .low, .xfer 0x20 (rx 2), .xfer (Config.initData 1) (rx 3), .cs .ag .high,
   .cs .ag .low, .xfer 0x1F (rx 4), .xfer (Config.initData 2) (rx 5), .cs .ag .high,
   .cs .m .low, .xfer 0x22 (rx 6), .xfer (Config.initData 3) (rx 7), .cs .m .high,
   .cs .m .low, .xfer 0x20 (rx 8), .xfer (Config.initData 4) (rx 9), .cs .m .high,
   .cs .m .low, .xfer 0x23 (rx 10), .xfer (Config.initData 5) (rx 11), .cs .m .high]

/-- The state after INIT, the environment and the draw counter apart (41_register_protocol.md R165). -/
def initialised (rx : Fin 12 → Byte) (e : Env) (n : Nat) (s : State) : State :=
  finished 25 false
    { s with
      txbuf := Config.initData 5
      rxbuf := rx 11
      busy := false
      agN := .high
      mN := .high
      mstr := true
      msbf := true
      ckdiv := Config.bitclkDiv
      ainc := true
      initd := true
      td := ⟨.m, false, true, false, 0x23, Config.initData 5⟩
      trace := s.trace ++ initTrace rx
      env := e
      draws := n }

end Sys2Proof.Expect

open Sys2Proof Sys2Proof.Machine

/-! Encodings. -/

/-- Words written out from 30_encoding.md R107 to R115 decode to the commands they stand for. -/
def Obligations.WrittenWordsDecode : Prop :=
  decode 0x10000000 = some .init ∧ decode 0x20010000 = some (.sel .m) ∧ decode 0x30000000 = some (.desel .ag) ∧
  decode 0x400000A8 = some (.xfer 0xA8) ∧ decode 0x500010C0 = some (.wrreg .ag 0x10 0xC0) ∧
  decode 0x50017FFF = some (.wrreg .m 0x7F 0xFF) ∧ decode 0x5003A800 = some (.rdreg .m 0x28 2) ∧
  decode 0x50008F00 = some (.rdreg .ag 0x0F 1) ∧ decode 0x60000005 = some .rdgz ∧ decode 0x60000009 = some .rdtemp ∧
  decode 0x6001000A = some (.rdid .m) ∧ decode 0x60010000 = none ∧ decode 0x50020000 = none

/-- Decoding the word of a well-formed command gives the command back, every operand at every value. -/
def Obligations.DecodeOfEncode : Prop := ∀ i : Instr, i.WellFormed → decode (encode i) = some i

/-- A word that decodes is the one word of its command, and the command is well-formed. -/
def Obligations.EncodeOfDecode : Prop := ∀ (w : Word) (i : Instr), decode w = some i → i.WellFormed ∧ encode i = w

/-- 30_encoding.md R116: a word is the command of the one row of the opcode table that it matches, and illegal where it
matches none. -/
def Obligations.DecodeAgreesWithOpcodeTable : Prop :=
  ∀ w : Word,
    (∀ i, decode w = some i →
      ∃ r ∈ opcodeTable, r.mnemonic = i.mnemonic ∧ r.Matches w ∧ ∀ q ∈ opcodeTable, q.Matches w → q = r) ∧
    (decode w = none → ∀ r ∈ opcodeTable, ¬ r.Matches w)

/-- 30_encoding.md R114: what each major opcode can be. -/
def Obligations.MajorOpcodeMap : Prop :=
  (∀ w, slice w 31 28 = 0 → decode w = none) ∧ (∀ w, 7 ≤ slice w 31 28 → decode w = none) ∧
  (∀ w i, decode w = some i →
    (slice w 31 28 = 1 ↔ i = .init) ∧ (slice w 31 28 = 2 ↔ ∃ d, i = .sel d) ∧ (slice w 31 28 = 3 ↔ ∃ d, i = .desel d) ∧
    (slice w 31 28 = 4 ↔ ∃ b, i = .xfer b) ∧
    (slice w 31 28 = 5 ∧ slice w 15 15 = 0 ↔ ∃ d a v, i = .wrreg d a v) ∧
    (slice w 31 28 = 5 ∧ slice w 15 15 = 1 ↔ ∃ d a bc, i = .rdreg d a bc) ∧
    (slice w 31 28 = 6 ↔ (acctab i).isSome ∨ ∃ d, i = .rdid d))

/-- 30_encoding.md R101: bit 7 of the address byte is 1 for a read and 0 for a write, it is the first bit on the wire, and
bits 6 to 0 are the address; a descriptor gives this byte. -/
def Obligations.AddressByteHoldsReadFlag : Prop :=
  (∀ a : Addr, (readByte a).msb = true ∧ (readByte a).setWidth 7 = a ∧ readByte a = a.setWidth 8 ||| 0x80 ∧
    (writeByte a).msb = false ∧ (writeByte a).setWidth 7 = a ∧
    (wireBits (readByte a)).head? = some true ∧ (wireBits (writeByte a)).head? = some false) ∧
  ∀ td : Td, td.addrByte = if td.rw then readByte td.addr else writeByte td.addr

/-- 10_state.md R32, 30_encoding.md R103: the fields of the descriptor stand at their bits, and the two bytes of the wire
are its bits 15 to 8 and 7 to 0. -/
def Obligations.DescriptorBitsAreTheWireBytes : Prop :=
  ∀ td : Td, Device.ofCode (slice td.word 18 18) = td.dev ∧ slice td.word 17 17 = flagBit td.bcm1 ∧
    slice td.word 16 16 = flagBit td.ainc ∧ slice td.word 15 15 = flagBit td.rw ∧
    slice td.word 14 8 = td.addr.toNat ∧ slice td.word 7 0 = td.data.toNat ∧
    slice td.word 15 8 = td.addrByte.toNat ∧ slice td.word 7 0 = td.dataByte.toNat

/-- 30_encoding.md R118: the first two bytes a format-R command sends are bits 15 to 8 and 7 to 0 of its word, and a
third byte 0x00 follows where `RW` = 1 and `BCM1` = 1. -/
def Obligations.RegisterWordMirrorsWireBytes : Prop :=
  ∀ (w : Word) (i : Instr) (s t : State), decode w = some i → slice w 31 28 = 5 → s.Accepts i →
    s.quietFor 5 = true → s.env.completes 3 s.draws = true → exec i s = .next t →
      t.trace.map Event.shape = s.trace.map Event.shape ++ [.cs (Device.ofCode (slice w 16 16)) .low] ++
          [.xfer (BitVec.ofNat 8 (slice w 15 8)) 0, .xfer (BitVec.ofNat 8 (slice w 7 0)) 0] ++
          (if slice w 15 15 = 1 ∧ slice w 17 17 = 1 then [.xfer 0x00 0] else []) ++
          [.cs (Device.ofCode (slice w 16 16)) .high]

/-! The step. -/

/-- An idle block with no reset asserted takes the word the host presents, and the step is `exec` of the command the word
decodes to, with the word gone from the host's list and one tick passed for the reset input (the model's own, log entry
9). -/
def Obligations.StepRunsDecodedCommand : Prop :=
  ∀ (s : State) (w : Word) (rest : List Word) (i : Instr), s.resetNow = false → s.cmd = none → s.host = w :: rest →
    decode w = some i → step s = exec i { s with host := rest, resets := tickBy 1 s.resets }

/-- 30_encoding.md R117: an illegal word makes no bus step, sets `STATUS.ILL` and completes without a value; nothing else
of the block changes. The word is gone from the host's list and the host program is marked at fault (60_exceptions.md
R222; `hostFault`, the response port's bits and the tick of the reset input are the model's own, log entries 2, 9
and 10). -/
def Obligations.IllegalWordOnlySetsIll : Prop :=
  ∀ (s : State) (w : Word) (rest : List Word), s.resetNow = false → s.cmd = none → s.host = w :: rest →
    decode w = none →
      step s = .next
        { s with
          ill := true, strobe := true, hasValue := false, host := rest, hostFault := true, resets := tickBy 1 s.resets }

/-- 70_reset_and_hazards.md R255: every command but INIT is refused while `STATUS.INITD` is 0, and INIT is not. That a
command is refused also where `CFG.MSTR` or `CFG.MSBF` is 0 with `STATUS.INITD` = 1 is the model's own, deduced from
10_state.md R30 (log entry 13). -/
def Obligations.CommandsBeforeInitAreRefused : Prop :=
  (∀ (i : Instr) (s : State), i.WellFormed → i ≠ .init → s.cmd = none →
    (s.initd = false ∨ s.mstr = false ∨ s.msbf = false) → exec i s = .refused .notInitialised) ∧
  (∀ s : State, s.cmd = none → ∃ t, exec .init s = .next t)

/-- A block that is not idle takes no second command: its command port is not ready (10_state.md R25). That `exec` of a
command answers such a state unchanged is the model's choice, deduced from R25 (log entry 11). -/
def Obligations.BusyBlockAcceptsNothing : Prop :=
  ∀ (i : Instr) (s : State), i.WellFormed → s.cmd ≠ none → exec i s = .next s ∧ s.cmdReady = false

/-- No word decodes to an RDREG with a byte count other than 1 and 2 (41_register_protocol.md R162). That `exec` refuses such
a term, which is no command, by name is the model's choice, deduced from R162 (log entry 12). -/
def Obligations.NoOtherByteCount : Prop :=
  (∀ d a bc s, bc ≠ 1 → bc ≠ 2 → exec (.rdreg d a bc) s = .refused .illFormedByteCount) ∧
  (∀ w d a bc, decode w = some (.rdreg d a bc) → bc = 1 ∨ bc = 2)

/-- An idle block to which nothing is presented stays as it is (10_state.md R24, R25). That the completion strobe and the
has-value bit end with this step, and that it is a tick of the reset input, are the model's choices (log entries 2
and 9). -/
def Obligations.IdleBlockWaits : Prop :=
  ∀ s : State, s.resetNow = false → s.cmd = none → s.host = [] →
    step s = .next { s with strobe := false, hasValue := false, resets := tickBy 1 s.resets }

/-! Reset. -/

/-- 10_state.md R37: the values of the state after reset, where the rule gives one. -/
def Obligations.ResetStateValues : Prop :=
  State.reset.AfterReset ∧ State.reset.cmdReady = true ∧ State.reset.statusWord = 0 ∧ State.reset.csoutWord = 3

/-- 70_reset_and_hazards.md R250, 10_state.md R38: reset, asserted whatever the block is doing, gives every piece of the
block's state its reset value and completes nothing; the devices' registers are untouched, and a sub-device whose line was
low sees it rise. That the words the host will present survive is the model's choice (log entry 9), and so is it that the
mark of a host program at fault does (log entry 10). -/
def Obligations.ResetWinsOverEverything : Prop :=
  ∀ s : State, s.resetNow = true →
    ∃ t, step s = .next t ∧ t.AfterReset ∧ t.strobe = false ∧ t.host = s.host ∧ t.hostFault = s.hostFault ∧
      t.env.regs = s.env.regs ∧
      (∀ r d, s.env = .refDev r → s.line d = .low → ∃ r', t.env = .refDev r' ∧ (r'.sub d).phase = .idle)

/-- 70_reset_and_hazards.md R250: a reset asserted after `n` bus steps of a command, `n` = 0 being the time between its
acceptance and its first bus step, abandons it without completion. (At which ticks a reset may fall, and that the host's
words survive, are the model's choices, log entry 9.) -/
def Obligations.ResetAbandonsRunningCommand : Prop :=
  ∀ (i : Instr) (s : State) (n : Nat) (rest : List Nat), s.Accepts i → s.resets = n :: rest → n < i.busSteps →
    s.env.completes i.transfers s.draws = true →
      ∃ t, exec i s = .next t ∧ t.AfterReset ∧ t.strobe = false ∧ t.resets = rest ∧ t.host = s.host

/-! The transport commands. -/

/-- 40_transport.md R141. (The tick of the reset input is the model's own, log entry 9.) -/
def Obligations.SelAssertsOneLine : Prop :=
  encode (.sel .ag) = 0x20000000 ∧ encode (.sel .m) = 0x20010000 ∧
  ∀ (d : Device) (s : State), s.Accepts (.sel d) → s.quietFor 1 = true →
    exec (.sel d) s = .next (Expect.finished 1 false (Expect.driven d .low s))

/-- 40_transport.md R142. (The tick of the reset input is the model's own, log entry 9.) -/
def Obligations.DeselDeassertsOneLine : Prop :=
  encode (.desel .ag) = 0x30000000 ∧ encode (.desel .m) = 0x30010000 ∧
  ∀ (d : Device) (s : State), s.Accepts (.desel d) → s.quietFor 1 = true →
    exec (.desel d) s = .next (Expect.finished 1 false (Expect.driven d .high s))

/-- 40_transport.md R143: XFER sends its byte whatever the chip-selects are, and returns the byte received, zero-extended;
where its transfer never completes the block is stuck in it. (`draws` and the tick of the reset input are the model's own,
log entries 4 and 9.) -/
def Obligations.XferExchangesOneByte : Prop :=
  (∀ b : Byte, encode (.xfer b) = 0x40000000 ||| b.setWidth 32) ∧
  (∀ (b rx : Byte) (s : State) (e : Env), s.Accepts (.xfer b) → s.quietFor 1 = true →
    s.env.answer s.lines b s.draws = ⟨some rx, e⟩ →
      exec (.xfer b) s = .next (Expect.finished 1 true
        { s with
          txbuf := b, rxbuf := rx, busy := false, res := rx.setWidth 16, trace := s.trace ++ [.xfer b rx], env := e,
          draws := s.draws + 1 })) ∧
  ∀ (b : Byte) (s : State) (e : Env), s.Accepts (.xfer b) → s.quietFor 1 = true →
    s.env.answer s.lines b s.draws = ⟨none, e⟩ →
      exec (.xfer b) s = .next
        { s with
          txbuf := b, busy := true, seq := 0, cmd := some (.xfer b), strobe := false, hasValue := false, env := e,
          draws := s.draws + 1 }

/-- 40_transport.md R140: a transport command appends one event at most, and neither `RDXBUF` nor `CFG` nor `TD` changes;
nor do `STATUS.INITD` and `STATUS.ILL`, and SEL and DESEL leave `TXBUF`, `RXBUF` and `RES`. -/
def Obligations.TransportFrame : Prop :=
  ∀ (i : Instr) (s t : State), ((∃ d, i = .sel d) ∨ (∃ d, i = .desel d) ∨ ∃ b, i = .xfer b) → s.quietFor 1 = true →
    exec i s = .next t →
      t.rdxbuf = s.rdxbuf ∧ t.mstr = s.mstr ∧ t.msbf = s.msbf ∧ t.ckdiv = s.ckdiv ∧ t.ainc = s.ainc ∧ t.td = s.td ∧
      t.initd = s.initd ∧ t.ill = s.ill ∧ t.trace.length ≤ s.trace.length + 1 ∧
      ((∀ b, i ≠ .xfer b) → t.txbuf = s.txbuf ∧ t.rxbuf = s.rxbuf ∧ t.res = s.res) ∧
      ((∃ b, i = .xfer b) → t.lines = s.lines)

/-- 40_transport.md R144: the levels of a byte in the order of the bit times, and the byte of eight levels sampled. -/
def Obligations.MostSignificantBitFirst : Prop :=
  (∀ b : Byte, (wireBits b).length = 8) ∧
  (∀ (b : Byte) (k : Nat), k < 8 → (wireBits b)[k]? = some (b.getLsbD (7 - k))) ∧
  (∀ (bits : List Bool) (k : Nat), bits.length = 8 → k < 8 → some ((sampleBits bits).getLsbD (7 - k)) = bits[k]?)

/-! The register protocol commands. -/

/-- 41_register_protocol.md R160: the word, the four bus steps with everything they leave, and the hang in either transfer.
(`draws` and the tick of the reset input are the model's own, log entries 4 and 9.) -/
def Obligations.WrregWritesOneFrame : Prop :=
  (∀ a v, encode (.wrreg .ag a v) = 0x50000000 ||| (a.setWidth 32 <<< 8) ||| v.setWidth 32) ∧
  (∀ a v, encode (.wrreg .m a v) = 0x50010000 ||| (a.setWidth 32 <<< 8) ||| v.setWidth 32) ∧
  (∀ (d : Device) (a : Addr) (v x y : Byte) (s : State) (e : Env), s.Accepts (.wrreg d a v) → s.quietFor 4 = true →
    s.frameAnswers d [writeByte a, v] = some ([x, y], e) →
      exec (.wrreg d a v) s = .next (Expect.written d a v x y e s)) ∧
  ∀ (d : Device) (a : Addr) (v : Byte) (s : State), s.Accepts (.wrreg d a v) → s.quietFor 4 = true →
    s.frameAnswers d [writeByte a, v] = none →
      ∃ t, exec (.wrreg d a v) s = .next t ∧ t.cmd = some (.wrreg d a v) ∧ t.line d = .low ∧ t.rdxbuf = s.rdxbuf ∧
        t.res = s.res

/-- 41_register_protocol.md R161: the words, the four or five bus steps with everything they leave, the result, and the
hang at each stage of `RDXBUF`. (`draws` and the tick of the reset input are the model's own, log entries 4 and 9.) -/
def Obligations.RdregReadsOneOrTwoBytes : Prop :=
  (∀ a, encode (.rdreg .ag a 1) = 0x50008000 ||| (a.setWidth 32 <<< 8) ∧
    encode (.rdreg .m a 1) = 0x50018000 ||| (a.setWidth 32 <<< 8) ∧
    encode (.rdreg .ag a 2) = 0x50028000 ||| (a.setWidth 32 <<< 8) ∧
    encode (.rdreg .m a 2) = 0x50038000 ||| (a.setWidth 32 <<< 8)) ∧
  (∀ (d : Device) (a : Addr) (x lo : Byte) (s : State) (e : Env), s.Accepts (.rdreg d a 1) → s.quietFor 4 = true →
    s.frameAnswers d [readByte a, 0x00] = some ([x, lo], e) →
      exec (.rdreg d a 1) s = .next (Expect.readOne d a x lo e s)) ∧
  (∀ (d : Device) (a : Addr) (x lo hi : Byte) (s : State) (e : Env), s.Accepts (.rdreg d a 2) → s.quietFor 5 = true →
    s.frameAnswers d [readByte a, 0x00, 0x00] = some ([x, lo, hi], e) →
      exec (.rdreg d a 2) s =
        .next (Expect.readTwo d a x lo hi ((hi.setWidth 16 <<< 8) ||| lo.setWidth 16) e s)) ∧
  (∀ (d : Device) (a : Addr) (bc : Nat) (s : State), s.Accepts (.rdreg d a bc) → s.quietFor 5 = true →
    s.frameAnswers d [readByte a, 0x00] = none →
      ∃ t, exec (.rdreg d a bc) s = .next t ∧ t.cmd = some (.rdreg d a bc) ∧ t.line d = .low ∧ t.rdxbuf = s.rdxbuf ∧
        t.res = s.res) ∧
  ∀ (d : Device) (a : Addr) (x lo : Byte) (s : State) (e : Env), s.Accepts (.rdreg d a 2) → s.quietFor 5 = true →
    s.frameAnswers d [readByte a, 0x00] = some ([x, lo], e) → s.frameAnswers d [readByte a, 0x00, 0x00] = none →
      ∃ t, exec (.rdreg d a 2) s = .next t ∧ t.cmd = some (.rdreg d a 2) ∧ t.line d = .low ∧
        t.rdxbuf = lo.setWidth 16 ∧ t.res = s.res

/-- 41_register_protocol.md R162: the assembler, low byte first; the scratch register's two stages give what it gives. -/
def Obligations.AssemblerIsLittleEndian : Prop :=
  (∀ rx0 rx1 : Byte, assemble 1 rx0 rx1 = rx0.setWidth 16) ∧
  (∀ rx0 rx1 : Byte, assemble 2 rx0 rx1 = (rx1.setWidth 16 <<< 8) ||| rx0.setWidth 16) ∧
  (∀ rx0 rx1 : Byte, highStage (lowStage rx0) rx1 = assemble 2 rx0 rx1) ∧
  (∀ rx0 rx1 : Byte, (assemble 2 rx0 rx1).toNat = rx1.toNat * 256 + rx0.toNat)

/-- 41_register_protocol.md R165, R166: INIT configures the shift engine, sends the six writes of the script in order and
sets `STATUS.INITD`; `RDXBUF`, `RES` and `STATUS.ILL` keep their values. In the environment that answers twelve listed bytes
these are the bytes received. Where a transfer never completes INIT is unfinished, `STATUS.INITD` as it was, and one line
low. The script's order and length are the spec's decision D11, the order of its last three entries from general knowledge
(93_implementation_defined.md U16, G1): no claim may rest on that order. -/
def Obligations.InitRunsScript : Prop :=
  encode .init = 0x10000000 ∧
  (∀ s : State, s.cmd = none → s.quietFor 25 = true → s.env.completes 12 s.draws = true →
    ∃ rx e, exec .init s = .next (Expect.initialised rx e (s.draws + 12) s)) ∧
  (∀ (s : State) (rx : Fin 12 → Byte) (rest : List (Option Byte)), s.cmd = none → s.quietFor 25 = true →
    s.env = .unconstrained ((List.ofFn rx).map some ++ rest) →
      exec .init s = .next (Expect.initialised rx (.unconstrained rest) (s.draws + 12) s)) ∧
  ∀ s : State, s.cmd = none → s.quietFor 25 = true → s.env.completes 12 s.draws = false → s.lines = Lines.bothHigh →
    ∃ t, exec .init s = .next t ∧ t.cmd = some .init ∧ t.initd = s.initd ∧ t.rdxbuf = s.rdxbuf ∧ t.res = s.res ∧
      (t.lines = ⟨.low, .high⟩ ∨ t.lines = ⟨.high, .low⟩)

/-! The accessors. -/

/-- 42_accessors_scaling.md R182 to R184: acceleration, with the range of the results. -/
def Obligations.AccelerationAccessors : Prop :=
  encode .rdax = 0x60000000 ∧ encode .rday = 0x60000001 ∧ encode .rdaz = 0x60000002 ∧
  Expect.ReadsScaled .rdax .ag 0x28 .acc ∧ Expect.ReadsScaled .rday .ag 0x2A .acc ∧
  Expect.ReadsScaled .rdaz .ag 0x2C .acc ∧
  (∀ raw, -1998 ≤ (scale .acc raw).toInt ∧ (scale .acc raw).toInt ≤ 1998) ∧
  (∀ raw, -17 < sint16 raw → sint16 raw < 17 → scale .acc raw = 0)

/-- 42_accessors_scaling.md R185 to R187: angular rate; the quotient fits 16 bits exactly for raw -3745 to 3744 and the
result wraps beyond (the spec's decision D9). -/
def Obligations.AngularRateAccessors : Prop :=
  encode .rdgx = 0x60000003 ∧ encode .rdgy = 0x60000004 ∧ encode .rdgz = 0x60000005 ∧
  Expect.ReadsScaled .rdgx .ag 0x18 .gyr ∧ Expect.ReadsScaled .rdgy .ag 0x1A .gyr ∧
  Expect.ReadsScaled .rdgz .ag 0x1C .gyr ∧
  (∀ raw, (scale .gyr raw).toInt = quotient .gyr raw ↔ -3745 ≤ sint16 raw ∧ sint16 raw ≤ 3744) ∧
  (∀ raw, -32768 ≤ quotient .gyr raw ∧ quotient .gyr raw ≤ 32767 ↔ -3745 ≤ sint16 raw ∧ sint16 raw ≤ 3744) ∧
  (∀ raw, (scale .gyr raw).toNat = quotient .gyr raw % 65536)

/-- 42_accessors_scaling.md R188 to R190: magnetic field, with the range of the results. -/
def Obligations.MagneticFieldAccessors : Prop :=
  encode .rdmx = 0x60000006 ∧ encode .rdmy = 0x60000007 ∧ encode .rdmz = 0x60000008 ∧
  Expect.ReadsScaled .rdmx .m 0x28 .mag ∧ Expect.ReadsScaled .rdmy .m 0x2A .mag ∧
  Expect.ReadsScaled .rdmz .m 0x2C .mag ∧
  (∀ raw, -4587 ≤ (scale .mag raw).toInt ∧ (scale .mag raw).toInt ≤ 4587) ∧
  (∀ raw, -8 < sint16 raw → sint16 raw < 8 → scale .mag raw = 0)

/-- 42_accessors_scaling.md R191: temperature, with the range of the results and no offset. -/
def Obligations.TemperatureAccessor : Prop :=
  encode .rdtemp = 0x60000009 ∧ Expect.ReadsScaled .rdtemp .ag 0x15 .tmp ∧
  (∀ raw, -20480 ≤ (scale .tmp raw).toInt ∧ (scale .tmp raw).toInt ≤ 20479) ∧
  (∀ raw, (scale .tmp raw).toInt = (sint16 raw * 10).tdiv 16)

/-- 42_accessors_scaling.md R192: the identity byte, neither scaled nor reinterpreted nor compared. (`draws` and the tick of
the reset input are the model's own, log entries 4 and 9.) -/
def Obligations.IdentityAccessor : Prop :=
  encode (.rdid .ag) = 0x6000000A ∧ encode (.rdid .m) = 0x6001000A ∧ whoAmI .ag = 0x68 ∧ whoAmI .m = 0x3D ∧
  ∀ (d : Device) (x id : Byte) (s : State) (e : Env), s.Accepts (.rdid d) → s.quietFor 4 = true →
    s.frameAnswers d [0x8F, 0x00] = some ([x, id], e) →
      exec (.rdid d) s = .next (Expect.readOne d 0x0F x id e s) ∧ ((Expect.readOne d 0x0F x id e s).res.toInt = id.toNat)

/-- 42_accessors_scaling.md R194: the product is exact and fits 26 signed bits. -/
def Obligations.ProductIsExact : Prop :=
  ∀ (k : ScaleKind) (raw : Half), product k raw = raw.toInt * k.num ∧
    -28672000 ≤ product k raw ∧ product k raw ≤ 28672000 ∧ (28672000 : Int) < 2 ^ 25 ∧
    (raw = 0 → product k raw = 0) ∧ (0 < raw.toInt → 0 < product k raw) ∧ (raw.toInt < 0 → product k raw < 0)

/-- 42_accessors_scaling.md R195: the division truncates toward zero, is odd-symmetric, keeps the sign, has no denominator
0, and is no arithmetic shift. -/
def Obligations.DivisionTruncatesTowardZero : Prop :=
  ScaleKind.acc.den = 1000 ∧ ScaleKind.gyr.den = 100 ∧ ScaleKind.mag.den = 100 ∧ ScaleKind.tmp.den = 16 ∧
  (∀ (k : ScaleKind) (raw : Half),
    (0 < product k raw → 0 ≤ quotient k raw) ∧ (product k raw < 0 → quotient k raw ≤ 0) ∧
    (product k raw = 0 → quotient k raw = 0)) ∧
  (∀ (k : ScaleKind) (raw : Half),
    (0 ≤ product k raw → quotient k raw = product k raw / k.den) ∧
    (product k raw < 0 → quotient k raw = -(-product k raw / k.den)) ∧
    (quotient k raw * k.den).natAbs ≤ (product k raw).natAbs ∧
    (product k raw - quotient k raw * k.den).natAbs < k.den.natAbs) ∧
  (∀ (k : ScaleKind) (p : Int), (-p).tdiv k.den = -(p.tdiv k.den)) ∧
  (-10 : Int).tdiv 16 = 0 ∧ (-10 : Int) >>> 4 = -1

/-- 42_accessors_scaling.md R196: a quotient inside 16 bits is the result, one outside wraps modulo 65536. -/
def Obligations.NarrowingWraps : Prop :=
  ∀ (k : ScaleKind) (raw : Half),
    (-32768 ≤ quotient k raw → quotient k raw ≤ 32767 → (scale k raw).toInt = quotient k raw) ∧
    (scale k raw).toNat = quotient k raw % 65536 ∧
    (quotient k raw < -32768 ∨ 32767 < quotient k raw → k = .gyr)

/-- 42_accessors_scaling.md R197: the ranges of the quotients and the corner values. -/
def Obligations.ScalingRanges : Prop :=
  (∀ raw, -1998 ≤ quotient .acc raw ∧ quotient .acc raw ≤ 1998 ∧
    (-16 ≤ sint16 raw ∧ sint16 raw ≤ 16 → quotient .acc raw = 0)) ∧
  quotient .acc 0x8000 = -1998 ∧ quotient .acc 0x7FFF = 1998 ∧
  (∀ raw, -286720 ≤ quotient .gyr raw ∧ quotient .gyr raw ≤ 286711 ∧
    (-32768 ≤ quotient .gyr raw ∧ quotient .gyr raw ≤ 32767 ↔ -3745 ≤ sint16 raw ∧ sint16 raw ≤ 3744) ∧
    (-3745 ≤ sint16 raw ∧ sint16 raw ≤ 3744 → -32768 ≤ quotient .gyr raw ∧ quotient .gyr raw ≤ 32760)) ∧
  quotient .gyr 0x0EA1 = 32768 ∧ (scale .gyr 0x0EA1).toInt = -32768 ∧
  quotient .gyr 0xF15E = -32777 ∧ (scale .gyr 0xF15E).toInt = 32759 ∧
  quotient .gyr 0x7FFF = 286711 ∧ scale .gyr 0x7FFF = 0x5FF7 ∧
  quotient .gyr 0x8000 = -286720 ∧ scale .gyr 0x8000 = 0xA000 ∧
  (∀ raw, -4587 ≤ quotient .mag raw ∧ quotient .mag raw ≤ 4587 ∧
    (-7 ≤ sint16 raw ∧ sint16 raw ≤ 7 → quotient .mag raw = 0)) ∧
  (∀ raw, -20480 ≤ quotient .tmp raw ∧ quotient .tmp raw ≤ 20479 ∧
    (-1 ≤ sint16 raw ∧ sint16 raw ≤ 1 → quotient .tmp raw = 0))

/-- 30_encoding.md R121: a scaled accessor has the trace of the RDREG with its row of the accessor table, and its response
is that RDREG's, scaled. -/
def Obligations.AccessorIsScaledRdreg : Prop :=
  ∀ (i : Instr) (row : AccessorRow) (s : State), acctab i = some row → s.Accepts i → s.quietFor 5 = true →
    s.env.completes 3 s.draws = true →
      ∃ t u, exec i s = .next t ∧ exec (.rdreg row.dev row.addr 2) s = .next u ∧ t.trace = u.trace ∧
        t.res = scale row.kind u.res ∧ t.rdxbuf = u.rdxbuf ∧ t.env = u.env ∧ t.td = u.td

/-- 30_encoding.md R121: the hand-built frame SEL, XFER, XFER, DESEL has the trace and the effect on the devices of
WRREG, but is four commands: it leaves `TD` and returns bytes. -/
def Obligations.HandBuiltFrameHasTheTraceOfWrreg : Prop :=
  ∀ (d : Device) (a : Addr) (v : Byte) (s : State), s.Accepts (.wrreg d a v) → s.quietFor 4 = true →
    s.env.completes 2 s.draws = true →
      ∃ t1 t2 t3 t4 u, exec (.sel d) s = .next t1 ∧ exec (.xfer (writeByte a)) t1 = .next t2 ∧
        exec (.xfer v) t2 = .next t3 ∧ exec (.desel d) t3 = .next t4 ∧ exec (.wrreg d a v) s = .next u ∧
        t4.trace = u.trace ∧ t4.env = u.env ∧ t4.lines = u.lines ∧ t4.td = s.td ∧ t4.res = t3.res ∧
        t3.res = u.rxbuf.setWidth 16

/-! Whole-machine rules. -/

/-- Every command that the block accepts completes where its transfers complete (60_exceptions.md R226) and no reset
comes, in exactly the bus steps of 70_reset_and_hazards.md R265, each of which appends one event. -/
def Obligations.CommandsCompleteInTheirBusSteps : Prop :=
  ∀ (i : Instr) (s : State), s.Accepts i → s.quietFor i.busSteps = true → s.env.completes i.transfers s.draws = true →
    ∃ t, exec i s = .next t ∧ t.cmd = none ∧ t.seq = 0 ∧ t.strobe = true ∧
      t.trace.length = s.trace.length + i.busSteps ∧ t.draws = s.draws + i.transfers

/-- 60_exceptions.md R226: where one of its transfers never completes, a command is stuck in it: `CMD` stays set, `SEQ`
counts the events appended, `STATUS.BUSY` is 1, the line of a transaction in progress is low, the port is not ready and
nothing is completed. -/
def Obligations.CommandsHangInTheirTransfer : Prop :=
  ∀ (i : Instr) (s : State), s.Accepts i → s.quietFor i.busSteps = true →
    s.env.completes i.transfers s.draws = false →
      ∃ t, exec i s = .next t ∧ t.cmd = some i ∧ t.busy = true ∧ t.seq < i.busSteps ∧
        t.trace.length = s.trace.length + t.seq ∧ t.strobe = false ∧ t.cmdReady = false ∧ t.res = s.res ∧
        t.initd = s.initd ∧ t.ill = s.ill ∧ t.host = s.host ∧ (i.composite = true → t.line t.td.dev = .low)

/-- 60_exceptions.md R226, R228: nothing but reset leaves a hang: a step of a hung block changes nothing of the block. -/
def Obligations.HangLastsUntilReset : Prop :=
  ∀ s : State, s.Hung → s.resetNow = false →
    step s = .next { s with strobe := false, hasValue := false, resets := tickBy 1 s.resets }

/-- 10_state.md R24: `SEQ` is the position in the command: after `k` bus steps it is `k`, and taking the command up at
`SEQ` ends as the command does. -/
def Obligations.SequencerCounterIsThePosition : Prop :=
  ∀ (i : Instr) (s u : State) (k : Nat), s.Accepts i → k ≤ i.busSteps →
    (s.accept i (planOf i)).firstSteps ((planOf i).steps.take k) = .running u →
      u.cmd = some i ∧ u.seq = k ∧ k ≤ 25 ∧ exec i s = .next (u.resume (planOf i)) ∧
      (u.busy = false → u.resetNow = false → step u = exec i s)

/-- 10_state.md R36: started with both lines high, a command among WRREG, RDREG, INIT and the accessors never has more than
one line low, `CSOUT` is what the events make of it, and both lines are high when it completes. -/
def Obligations.ChipSelectsAreExclusive : Prop :=
  ∀ (i : Instr) (s t : State), i.composite = true → s.Accepts i → s.lines = Lines.bothHigh →
    s.quietFor i.busSteps = true → exec i s = .next t →
      ∃ evs, t.trace = s.trace ++ evs ∧ (∀ p, p <+: evs → (Lines.bothHigh.after p).Exclusive) ∧
        t.lines = Lines.bothHigh.after evs ∧ (t.cmd = none → t.lines = Lines.bothHigh)

/-- 70_reset_and_hazards.md R257: a command that selects its own device, started with both lines high and with its transfers
completing, keeps the machine in a safe state, with both lines high again. -/
def Obligations.WholeCommandsKeepSafe : Prop :=
  ∀ (i : Instr) (s : State), i.composite = true → s.Accepts i → s.Safe → s.lines = Lines.bothHigh →
    s.quietFor i.busSteps = true → s.env.completes i.transfers s.draws = true →
      ∃ t, exec i s = .next t ∧ t.Safe ∧ t.lines = Lines.bothHigh

/-- 41_register_protocol.md R163: nothing the environment answers changes what the block does on the bus: two runs of a
command that differ in the environment alone do the same as far as both go. -/
def Obligations.AnswersDoNotChangeTheBusSequence : Prop :=
  ∀ (i : Instr) (s t u : State) (e : Env) (n : Nat), s.Accepts i → s.quietFor i.busSteps = true →
    exec i s = .next t → exec i { s with env := e, draws := n } = .next u →
      (t.trace.map Event.shape <+: u.trace.map Event.shape ∨ u.trace.map Event.shape <+: t.trace.map Event.shape) ∧
      (t.cmd = none → u.cmd = none →
        t.trace.map Event.shape = u.trace.map Event.shape ∧ t.txbuf = u.txbuf ∧ t.lines = u.lines ∧ t.td = u.td ∧
        t.cfgWord = u.cfgWord ∧ t.statusWord = u.statusWord ∧ t.hasValue = u.hasValue)

/-- The invariant of the machine is kept by every step. -/
def Obligations.StepKeepsInvariant : Prop :=
  ∀ s t : State, s.Inv → step s = .next t → t.Inv

/-- The invariant of the machine holds after reset. -/
def Obligations.ResetHasInvariant : Prop := State.reset.Inv

/-- 10_state.md R29, R31: `CSOUT` changes only through the chip-select events: without a reset, a step leaves the lines as
the events it appends make them. -/
def Obligations.LinesFollowTheEvents : Prop :=
  ∀ s t : State, s.quietFor 26 = true → step s = .next t →
    ∃ evs, t.trace = s.trace ++ evs ∧ t.lines = s.lines.after evs

/-- 10_state.md R30, R27: without a reset, only INIT changes `CFG` and `STATUS.INITD`. -/
def Obligations.OnlyInitConfigures : Prop :=
  ∀ s t : State, s.quietFor 26 = true → s.cmd ≠ some .init → (∀ w rest, s.host = w :: rest → decode w ≠ some .init) →
    step s = .next t →
      t.mstr = s.mstr ∧ t.msbf = s.msbf ∧ t.ckdiv = s.ckdiv ∧ t.ainc = s.ainc ∧ t.initd = s.initd

/-- 10_state.md R27, R28: "nothing clears it but reset", for `STATUS.INITD` and for `STATUS.ILL`, and only an illegal word
sets `STATUS.ILL`. -/
def Obligations.InitdAndIllAreSticky : Prop :=
  ∀ s t : State, s.quietFor 26 = true → step s = .next t →
    (s.initd = true → t.initd = true) ∧ (s.ill = true → t.ill = true) ∧
    (s.ill = false → t.ill = true → ∃ w rest, s.host = w :: rest ∧ decode w = none)

/-- 10_state.md R22, R23: `RDXBUF` is written only by the commands that read a device register, and `RES` only by the
commands that return a value, whether they complete or hang. -/
def Obligations.ScratchAndResponseFrame : Prop :=
  ∀ (i : Instr) (s t : State), s.quietFor i.busSteps = true → exec i s = .next t →
    ((i = .init ∨ (∃ d, i = .sel d) ∨ (∃ d, i = .desel d) ∨ (∃ b, i = .xfer b) ∨ ∃ d a v, i = .wrreg d a v) →
      t.rdxbuf = s.rdxbuf) ∧
    ((i = .init ∨ (∃ d, i = .sel d) ∨ (∃ d, i = .desel d) ∨ ∃ d a v, i = .wrreg d a v) → t.res = s.res)

/-! The reference device. -/

/-- 20_memory.md R61, R76, 42_accessors_scaling.md R180: the default writable registers are the `W` rows of the register map,
every scaled accessor reads at the address the map gives the low byte of its quantity, on the map's device, with the high
byte at the next address, and RDID reads at the address of the identity registers. -/
def Obligations.TablesFollowTheRegisterMap : Prop :=
  defaultWritable .ag = [0x10, 0x1F, 0x20] ∧ defaultWritable .m = [0x20, 0x22, 0x23] ∧
  (∀ p ∈ [(Instr.rdax, Device.ag, "OUT_X_L_XL", "OUT_X_H_XL", ScaleKind.acc),
      (.rday, .ag, "OUT_Y_L_XL", "OUT_Y_H_XL", .acc), (.rdaz, .ag, "OUT_Z_L_XL", "OUT_Z_H_XL", .acc),
      (.rdgx, .ag, "OUT_X_L_G", "OUT_X_H_G", .gyr), (.rdgy, .ag, "OUT_Y_L_G", "OUT_Y_H_G", .gyr),
      (.rdgz, .ag, "OUT_Z_L_G", "OUT_Z_H_G", .gyr), (.rdmx, .m, "OUT_X_L_M", "OUT_X_H_M", .mag),
      (.rdmy, .m, "OUT_Y_L_M", "OUT_Y_H_M", .mag), (.rdmz, .m, "OUT_Z_L_M", "OUT_Z_H_M", .mag),
      (.rdtemp, .ag, "OUT_TEMP_L", "OUT_TEMP_H", .tmp)],
    (acctab p.1).map AccessorRow.dev = some p.2.1 ∧ (acctab p.1).map AccessorRow.kind = some p.2.2.2.2 ∧
    (acctab p.1).map AccessorRow.addr = addrOf p.2.1 p.2.2.1 ∧
    (acctab p.1).map (fun row => row.addr + 1) = addrOf p.2.1 p.2.2.2.1) ∧
  (∀ i row, acctab i = some row → planOf i = ⟨[loadRead row.dev row.addr 2], readFrame row.dev 2, .scaled row.kind⟩) ∧
  (∀ d, planOf (.rdid d) = ⟨[loadRead d identityAddr 1], readFrame d 1, .raw⟩) ∧
  addrOf .ag "WHO_AM_I" = some identityAddr ∧ addrOf .m "WHO_AM_I_M" = some identityAddr ∧
  whoAmI .ag = 0x68 ∧ whoAmI .m = 0x3D

/-- A read of a register space after a write gives the byte written there and the old byte elsewhere, the canonical form
stays, and register spaces in canonical form that read alike are the same data. -/
def Obligations.RegisterSpaceIsCanonicalStorage : Prop :=
  (∀ (mem : Memory) (a b : Addr) (v : Byte), mem.wf = true →
    (mem.write a v).wf = true ∧ (mem.write a v).read a = v ∧ (b ≠ a → (mem.write a v).read b = mem.read b)) ∧
  (∀ m1 m2 : Memory, m1.wf = true → m2.wf = true → (∀ a, m1.read a = m2.read a) → m1 = m2)

/-- 20_memory.md R79: on the reference device WRREG, started with both lines high, completes and stores its byte at its
address where that is writable, and changes no other register of either device. -/
def Obligations.WrregStoresOneByte : Prop :=
  ∀ (d : Device) (a : Addr) (v : Byte) (s : State) (r : RefDev), s.Accepts (.wrreg d a v) → s.quietFor 4 = true →
    s.lines = Lines.bothHigh → s.env = .refDev r → r.outside = false → s.env.memWf = true →
      ∃ t, exec (.wrreg d a v) s = .next t ∧ t.cmd = none ∧
        (∀ d' b, ¬ (d' = d ∧ b = a) → t.env.regAt d' b = s.env.regAt d' b) ∧
        (t.env.regAt d a = if a ∈ (r.sub d).writable then some v
          else s.env.regAt d a)

/-- 20_memory.md R79: on the reference device INIT leaves its data bytes in the six registers of the script, the default
writable ones, and every other register as it was. Which of the six bytes lands in which register is the order of the
script, the spec's decision D11, for the three registers of `M` from general knowledge (93_implementation_defined.md U16,
G1; log entry 15): no claim may rest on that pairing. -/
def Obligations.InitStoresItsData : Prop :=
  ∀ (s : State) (r : RefDev), s.cmd = none → s.quietFor 25 = true → s.lines = Lines.bothHigh → s.env = .refDev r →
    r.outside = false → s.env.memWf = true → r.ag.writable = defaultWritable .ag → r.m.writable = defaultWritable .m →
      ∃ t, exec .init s = .next t ∧
        t.env.regAt .ag 0x10 = some (Config.initData 0) ∧ t.env.regAt .ag 0x20 = some (Config.initData 1) ∧
        t.env.regAt .ag 0x1F = some (Config.initData 2) ∧ t.env.regAt .m 0x22 = some (Config.initData 3) ∧
        t.env.regAt .m 0x20 = some (Config.initData 4) ∧ t.env.regAt .m 0x23 = some (Config.initData 5) ∧
        (∀ a, a ∉ defaultWritable .ag → t.env.regAt .ag a = s.env.regAt .ag a) ∧
        (∀ a, a ∉ defaultWritable .m → t.env.regAt .m a = s.env.regAt .m a)

/-- A command that reads a device register (42_accessors_scaling.md R199, 41_register_protocol.md R161), started with both
lines high, changes no register of either device, whether it completes or hangs. That this is so also of a reference
device that a second data byte of a write frame has put outside its rules is the model's choice (log entry 6). -/
def Obligations.ReadsLeaveTheDeviceRegisters : Prop :=
  ∀ (i : Instr) (s t : State), ((∃ d a bc, i = .rdreg d a bc) ∨ (acctab i).isSome = true ∨ ∃ d, i = .rdid d) →
    s.lines = Lines.bothHigh → s.quietFor 5 = true → exec i s = .next t →
      ∀ d a, t.env.regAt d a = s.env.regAt d a

/-- 20_memory.md R77 to R79, R81: SEL and DESEL change no device register; XFER, with at most one line low, changes only
the one its byte is stored to. That XFER changes no register in the cases these rules leave open (a second data byte of a
write frame, every transfer once such a byte has put the device outside its rules, a selected sub-device in phase `IDLE`)
is the model's choice, an unsafe one (log entry 6): no claim about a device may rest on it there. -/
def Obligations.TransportLeavesOtherDeviceRegisters : Prop :=
  (∀ (i : Instr) (s t : State), ((∃ d, i = .sel d) ∨ ∃ d, i = .desel d) → s.quietFor 1 = true → exec i s = .next t →
    ∀ d a, t.env.regAt d a = s.env.regAt d a) ∧
  (∀ (b : Byte) (s t : State), s.lines.Exclusive → s.quietFor 1 = true → s.cmd = none → s.env.memWf = true →
    exec (.xfer b) s = .next t →
      (∀ d a, s.env.storeTarget s.lines ≠ some (d, a) → t.env.regAt d a = s.env.regAt d a) ∧
      (∀ d a, s.env.storeTarget s.lines = some (d, a) → t.env.regAt d a = some b))

/-- 41_register_protocol.md R168 on the reference device: a byte written to a writable register is read back. -/
def Obligations.WriteThenReadBack : Prop :=
  ∀ (d : Device) (a : Addr) (v : Byte) (s : State) (r : RefDev), s.Accepts (.wrreg d a v) → s.quietFor 8 = true →
    s.lines = Lines.bothHigh → s.env = .refDev r → r.outside = false → s.env.memWf = true →
    a ∈ (r.sub d).writable →
      ∃ t u, exec (.wrreg d a v) s = .next t ∧ exec (.rdreg d a 1) t = .next u ∧ u.cmd = none ∧
        u.res = v.setWidth 16

/-- 20_memory.md R65, R71, R73: under `DEV_ANSWERS` a 2-byte read returns the contents of the locations the pointer
designates, low byte first, and under `DEV_AUTOINC` as well those of its address and of the next one. -/
def Obligations.TwoByteReadUnderAutoIncrement : Prop :=
  ∀ (d : Device) (a : Addr) (content : Addr → Byte) (ptr : Nat → Addr) (s : State), s.Accepts (.rdreg d a 2) →
    s.quietFor 5 = true → s.env.completes 3 s.draws = true → DevAnswers d content ptr a s →
      ∃ t, exec (.rdreg d a 2) s = .next t ∧ t.cmd = none ∧ t.td.ainc = s.ainc ∧
        t.res.toNat = (content (ptr 1)).toNat * 256 + (content a).toNat ∧
        (s.ainc = true → DevAutoinc d content a s →
          ∃ b : Addr, b.toNat = a.toNat + 1 ∧ t.res.toNat = (content b).toNat * 256 + (content a).toNat)

/-- 20_memory.md R82, R80: with both lines high the reference device satisfies `DEV_ANSWERS`, its pointer advancing where
its capability is enabled; where the policy is in force it satisfies `DEV_AUTOINC` exactly when the address is not 0x7F and
the capability is enabled, or the two registers happen to hold one byte; it completes every transfer. With the capability
enabled a 2-byte read at 0x7F takes its second byte from 0x00, without it both bytes come from one location. -/
def Obligations.ReferenceDeviceMeetsTheAssumptions : Prop :=
  ∀ (d : Device) (a : Addr) (s : State) (r : RefDev) (x : RefDevice), s.lines = Lines.bothHigh → s.env = .refDev r →
    r.outside = false → x = r.sub d →
      (∀ k n, s.env.completes k n = true) ∧
      DevAnswers d x.reg.read (fun k => if x.ainc then a + BitVec.ofNat 7 k else a) a s ∧
      (s.ainc = true → (DevAutoinc d x.reg.read a s ↔
        a ≠ 0x7F ∧ (x.ainc = true ∨ x.reg.read a = x.reg.read (a + 1)))) ∧
      (x.ainc = true → ∀ y lo hi e, s.frameAnswers d [readByte 0x7F, dummy, dummy] = some ([y, lo, hi], e) →
        lo = x.reg.read 0x7F ∧ hi = x.reg.read 0x00) ∧
      (x.ainc = false → ∀ y lo hi e, s.frameAnswers d [readByte a, dummy, dummy] = some ([y, lo, hi], e) → hi = lo)

/-- 20_memory.md R77, 70_reset_and_hazards.md R258: on the reference device SEL with the line high starts a frame and DESEL
ends one. A second SEL restarts the frame (R77) or leaves it as it is (R258): the two rules differ, and the device's
parameter, the model's own (log entry 16), says which. The other sub-device sees nothing, and no register changes. -/
def Obligations.ReferenceDeviceSeesItsLine : Prop :=
  ∀ (d : Device) (s : State) (r : RefDev), s.env = .refDev r → s.quietFor 1 = true →
    (s.Accepts (.sel d) → ∃ t r', exec (.sel d) s = .next t ∧ t.env = .refDev r' ∧
      (s.line d = .high ∨ (r.sub d).restarts = true →
        r'.sub d = { r.sub d with phase := .addr, wrote := false }) ∧
      (s.line d = .low → (r.sub d).restarts = false → r'.sub d = r.sub d) ∧
      (∀ d', d' ≠ d → r'.sub d' = r.sub d') ∧ r'.outside = r.outside) ∧
    (s.Accepts (.desel d) → ∃ t r', exec (.desel d) s = .next t ∧ t.env = .refDev r' ∧
      r'.sub d = { r.sub d with phase := .idle, wrote := false } ∧
      (∀ d', d' ≠ d → r'.sub d' = r.sub d') ∧ r'.outside = r.outside)
end

