-- ==== Sys2Proof/Laws/Decode.lean ====
section
/-! SUPPORT. The fields of a command word built from fields, and what follows for the encoder and the decoder. -/

namespace Sys2Proof

section fields

variable {op bcm1 dev rw addr low : Nat}

theorem Device.code_lt_two (d : Device) : d.code < 2 := by cases d <;> decide

theorem wordOf_toNat (h1 : op < 16) (h2 : bcm1 < 2) (h3 : dev < 2) (h4 : rw < 2) (h5 : addr < 128) (h6 : low < 256) :
    (wordOf op bcm1 dev rw addr low).toNat =
      op * 2 ^ 28 + bcm1 * 2 ^ 17 + dev * 2 ^ 16 + rw * 2 ^ 15 + addr * 2 ^ 8 + low := by
  rw [wordOf, BitVec.toNat_ofNat, Nat.mod_eq_of_lt]
  omega

end fields

theorem slice_eq {n : Nat} (v : BitVec n) (hi lo : Nat) : slice v hi lo = v.toNat / 2 ^ lo % 2 ^ (hi + 1 - lo) := rfl

theorem ofCode_code (d : Device) : Device.ofCode d.code = d := by cases d <;> rfl

theorem code_ofCode {n : Nat} (h : n < 2) : (Device.ofCode n).code = n := by
  rcases (by omega : n = 0 ∨ n = 1) with rfl | rfl <;> rfl

/-- The word of a command whose fields are in range, field by field. -/
theorem slices_wordOf {op bcm1 dev rw addr low : Nat} (h1 : op < 16) (h2 : bcm1 < 2) (h3 : dev < 2) (h4 : rw < 2)
    (h5 : addr < 128) (h6 : low < 256) :
    slice (wordOf op bcm1 dev rw addr low) 31 28 = op ∧ slice (wordOf op bcm1 dev rw addr low) 27 18 = 0 ∧
    slice (wordOf op bcm1 dev rw addr low) 17 17 = bcm1 ∧ slice (wordOf op bcm1 dev rw addr low) 16 16 = dev ∧
    slice (wordOf op bcm1 dev rw addr low) 15 15 = rw ∧ slice (wordOf op bcm1 dev rw addr low) 14 8 = addr ∧
    slice (wordOf op bcm1 dev rw addr low) 7 0 = low := by
  simp only [slice_eq, wordOf_toNat h1 h2 h3 h4 h5 h6]
  refine ⟨?_, ?_, ?_, ?_, ?_, ?_, ?_⟩ <;> omega

/-- The MBZ fields of formats D, B and A in terms of those of format R. -/
theorem slices_mbz (w : Word) :
    slice w 27 17 = slice w 27 18 * 2 + slice w 17 17 ∧
    slice w 15 0 = slice w 15 15 * 2 ^ 15 + slice w 14 8 * 2 ^ 8 + slice w 7 0 ∧
    slice w 27 8 = slice w 27 18 * 2 ^ 10 + slice w 17 17 * 2 ^ 9 + slice w 16 16 * 2 ^ 8 + slice w 15 15 * 2 ^ 7
      + slice w 14 8 ∧
    slice w 27 0 = slice w 27 18 * 2 ^ 18 + slice w 17 17 * 2 ^ 17 + slice w 16 16 * 2 ^ 16 + slice w 15 15 * 2 ^ 15
      + slice w 14 8 * 2 ^ 8 + slice w 7 0 ∧
    slice w 15 4 = slice w 15 15 * 2 ^ 11 + slice w 14 8 * 2 ^ 4 + slice w 7 0 / 2 ^ 4 ∧
    slice w 3 0 = slice w 7 0 % 2 ^ 4 := by
  have h := w.isLt
  simp only [slice_eq]
  refine ⟨?_, ?_, ?_, ?_, ?_, ?_⟩ <;> omega

/-- A word is the sum of its fields. -/
theorem word_eq_wordOf (w : Word) (h : slice w 27 18 = 0) :
    w = wordOf (slice w 31 28) (slice w 17 17) (slice w 16 16) (slice w 15 15) (slice w 14 8) (slice w 7 0) := by
  apply BitVec.eq_of_toNat_eq
  have hw := w.isLt
  have b1 : slice w 31 28 < 16 := by simp only [slice_eq]; omega
  have b2 : slice w 17 17 < 2 := by simp only [slice_eq]; omega
  have b3 : slice w 16 16 < 2 := by simp only [slice_eq]; omega
  have b4 : slice w 15 15 < 2 := by simp only [slice_eq]; omega
  have b5 : slice w 14 8 < 128 := by simp only [slice_eq]; omega
  have b6 : slice w 7 0 < 256 := by simp only [slice_eq]; omega
  rw [wordOf_toNat b1 b2 b3 b4 b5 b6]
  simp only [slice_eq] at *
  omega

/-- Everything the decoder can do: the word has its MBZ bits 27 to 18 clear, the command is well-formed, and its word is the
sum of the fields read. -/
theorem decode_cases (w : Word) (i : Instr) (h : decode w = some i) : slice w 27 18 = 0 ∧ i.WellFormed ∧
    encode i = wordOf (slice w 31 28) (slice w 17 17) (slice w 16 16) (slice w 15 15) (slice w 14 8) (slice w 7 0) := by
  have hw := w.isLt
  have b1 : slice w 31 28 < 16 := by simp only [slice_eq]; omega
  have b2 : slice w 17 17 < 2 := by simp only [slice_eq]; omega
  have b3 : slice w 16 16 < 2 := by simp only [slice_eq]; omega
  have b4 : slice w 15 15 < 2 := by simp only [slice_eq]; omega
  have b5 : slice w 14 8 < 128 := by simp only [slice_eq]; omega
  have b6 : slice w 7 0 < 256 := by simp only [slice_eq]; omega
  obtain ⟨m1,m2,m3,m4,m5,m6⟩ := slices_mbz w
  unfold decode at h
  generalize slice w 31 28 = op at *
  unfold decodeZ decodeD decodeB decodeR decodeA at h
  generalize slice w 17 17 = bcm at *
  generalize slice w 15 15 = rw' at *
  generalize slice w 14 8 = ad at *
  generalize slice w 7 0 = lo at *
  generalize slice w 27 18 = hi at *
  generalize slice w 16 16 = dv at *
  generalize slice w 27 17 = x1 at *
  generalize slice w 15 0 = x2 at *
  generalize slice w 27 8 = x3 at *
  generalize slice w 27 0 = x4 at *
  generalize slice w 15 4 = x5 at *
  generalize slice w 3 0 = x6 at *
  clear w hw
  split at h
  · split at h <;> cases h
    obtain ⟨rfl, rfl, rfl, rfl, rfl, rfl⟩ : hi = 0 ∧ bcm = 0 ∧ dv = 0 ∧ rw' = 0 ∧ ad = 0 ∧ lo = 0 := by omega
    exact ⟨rfl, trivial, rfl⟩
  · split at h <;> cases h
    obtain ⟨rfl, rfl, rfl, rfl, rfl⟩ : hi = 0 ∧ bcm = 0 ∧ rw' = 0 ∧ ad = 0 ∧ lo = 0 := by omega
    exact ⟨rfl, trivial, by simp [encode, code_ofCode b3]⟩
  · split at h <;> cases h
    obtain ⟨rfl, rfl, rfl, rfl, rfl⟩ : hi = 0 ∧ bcm = 0 ∧ rw' = 0 ∧ ad = 0 ∧ lo = 0 := by omega
    exact ⟨rfl, trivial, by simp [encode, code_ofCode b3]⟩
  · split at h <;> cases h
    obtain ⟨rfl, rfl, rfl, rfl, rfl⟩ : hi = 0 ∧ bcm = 0 ∧ dv = 0 ∧ rw' = 0 ∧ ad = 0 := by omega
    exact ⟨rfl, trivial, by simp [encode, Nat.mod_eq_of_lt b6]⟩
  · split at h
    · cases h
    · split at h
      · split at h <;> cases h
        obtain ⟨rfl, rfl, rfl⟩ : hi = 0 ∧ bcm = 0 ∧ rw' = 0 := by omega
        exact ⟨rfl, trivial, by simp [encode, code_ofCode b3, Nat.mod_eq_of_lt b6, Nat.mod_eq_of_lt b5]⟩
      · split at h <;> cases h
        obtain ⟨rfl, rfl, rfl⟩ : hi = 0 ∧ lo = 0 ∧ rw' = 1 := by omega
        exact ⟨rfl, by show _ ∨ _; omega, by simp [encode, code_ofCode b3, Nat.mod_eq_of_lt b5]⟩
  · split at h
    · cases h
    · split at h
      · cases h
        obtain ⟨rfl, rfl, rfl, rfl, rfl⟩ : hi = 0 ∧ bcm = 0 ∧ rw' = 0 ∧ ad = 0 ∧ lo = 10 := by omega
        exact ⟨rfl, trivial, by simp [encode, code_ofCode b3]⟩
      · split at h
        · cases h
        · obtain ⟨rfl, rfl, rfl, rfl, rfl⟩ : hi = 0 ∧ bcm = 0 ∧ rw' = 0 ∧ ad = 0 ∧ dv = 0 := by omega
          have hlo : lo = x6 := by omega
          subst hlo
          split at h <;> cases h <;> exact ⟨rfl, trivial, rfl⟩
  · cases h


theorem slice_lt {n : Nat} (v : BitVec n) (hi lo : Nat) : slice v hi lo < 2 ^ (hi + 1 - lo) := Nat.mod_lt _ (Nat.two_pow_pos _)

/-- A field of a conjunction is the conjunction of the fields. -/
theorem slice_and (w m : Word) (hi lo : Nat) : slice (w &&& m) hi lo = slice w hi lo &&& slice m hi lo := by
  simp only [slice_eq, BitVec.toNat_and, ← Nat.shiftRight_eq_div_pow, Nat.shiftRight_and_distrib, Nat.and_mod_two_pow]

/-- Two words with the same fields are the same word. -/
theorem eq_of_slices {w v : Word} (h1 : slice w 31 28 = slice v 31 28) (h2 : slice w 27 18 = slice v 27 18)
  (h3 : slice w 17 17 = slice v 17 17) (h4 : slice w 16 16 = slice v 16 16) (h5 : slice w 15 15 = slice v 15 15)
  (h6 : slice w 14 8 = slice v 14 8) (h7 : slice w 7 0 = slice v 7 0) : w = v := by
  apply BitVec.eq_of_toNat_eq
  have a := w.isLt
  have b := v.isLt
  simp only [slice_eq] at *
  omega

/-- A word matches a row of the opcode table field by field. -/
theorem matches_iff (r : OpcodeRow) (w : Word) : r.Matches w ↔
   slice w 31 28 &&& slice r.mask 31 28 = slice r.value 31 28 ∧ slice w 27 18 &&& slice r.mask 27 18 = slice r.value 27 18 ∧
   slice w 17 17 &&& slice r.mask 17 17 = slice r.value 17 17 ∧ slice w 16 16 &&& slice r.mask 16 16 = slice r.value 16 16 ∧
   slice w 15 15 &&& slice r.mask 15 15 = slice r.value 15 15 ∧ slice w 14 8 &&& slice r.mask 14 8 = slice r.value 14 8 ∧
   slice w 7 0 &&& slice r.mask 7 0 = slice r.value 7 0 := by
  simp only [← slice_and, OpcodeRow.Matches]
  constructor
  · intro h; rw [h]; exact ⟨rfl, rfl, rfl, rfl, rfl, rfl, rfl⟩
  · rintro ⟨h1,h2,h3,h4,h5,h6,h7⟩; exact eq_of_slices h1 h2 h3 h4 h5 h6 h7

end Sys2Proof
end

