-- ==== Sys2Proof/Laws/Memory.lean ====
section
/-! SUPPORT. The register contents of a sub-device: a read after a write, and the canonical form kept by every operation. -/

namespace Sys2Proof.Machine

theorem Memory.wfFrom_cons (lo : Nat) (c : Host.Cell) (cs : Memory) : Memory.wfFrom lo (c :: cs) = true ↔
    lo ≤ c.1 ∧ c.1 < spaceSize ∧ c.2 ≠ unlisted ∧ Memory.wfFrom (c.1 + 1) cs = true := by
  simp [Memory.wfFrom, and_assoc]

/-- A read of the location just written gives the byte written. -/
theorem Memory.readAt_writeAt_same (mem : Memory) (lo a : Nat) (v : Byte) (h : Memory.wfFrom lo mem = true) :
    (mem.writeAt a v).readAt a = v := by
  induction mem generalizing lo with
  | nil =>
    by_cases hv : v = unlisted <;> simp [writeAt, readAt, hv]
  | cons c cs ih =>
    obtain ⟨-, -, -, hcs⟩ := (wfFrom_cons _ _ _).1 h
    have low : ∀ (l : Memory) (b : Nat), Memory.wfFrom b l = true → a < b → Memory.readAt l a = unlisted := by
      intro l
      induction l with
      | nil => intros; rfl
      | cons e es ihe =>
        intro b hb hab
        obtain ⟨h1, -, -, h4⟩ := (wfFrom_cons _ _ _).1 hb
        have hne : a ≠ e.1 := by omega
        simp only [readAt, hne, if_false]
        exact ihe _ h4 (by omega)
    simp only [writeAt]
    split
    · split
      · next h1 h2 =>
        have hne : a ≠ c.1 := by omega
        simp only [readAt, hne, if_false, h2]
        exact low cs _ hcs (by omega)
      · simp [readAt]
    · split
      · next h1 h2 =>
        split
        · next h3 => rw [h3]; exact low cs _ hcs (by omega)
        · simp [readAt]
      · next h1 h2 =>
        simp only [readAt, h2, if_false]
        exact ih _ hcs

/-- A write leaves every other location alone. -/
theorem Memory.readAt_writeAt_other (mem : Memory) (a b : Nat) (v : Byte) (h : b ≠ a) :
    (mem.writeAt a v).readAt b = mem.readAt b := by
  induction mem with
  | nil =>
    by_cases hv : v = unlisted <;> simp [writeAt, readAt, hv, h]
  | cons c cs ih =>
    simp only [writeAt]
    split
    · split
      · rfl
      · simp [readAt, h]
    · split
      · next h1 h2 =>
        have hb : b ≠ c.1 := by omega
        split <;> simp [readAt, hb, h]
      · simp only [readAt, ih]

theorem Memory.wfFrom_mono {lo lo' : Nat} {mem : Memory} (h : Memory.wfFrom lo mem = true) (hl : lo' ≤ lo) :
    Memory.wfFrom lo' mem = true := by
  cases mem with
  | nil => rfl
  | cons c cs =>
    rw [wfFrom_cons] at h ⊢
    exact ⟨by omega, h.2⟩

theorem Memory.wfFrom_writeAt (mem : Memory) (lo a : Nat) (v : Byte) (h : Memory.wfFrom lo mem = true) (hlo : lo ≤ a)
    (ha : a < spaceSize) : Memory.wfFrom lo (mem.writeAt a v) = true := by
  induction mem generalizing lo with
  | nil =>
    simp only [writeAt]
    split
    · rfl
    · next hv => rw [wfFrom_cons]; exact ⟨hlo, ha, hv, rfl⟩
  | cons c cs ih =>
    obtain ⟨h1, h2, h3, h4⟩ := (wfFrom_cons _ _ _).1 h
    simp only [writeAt]
    split
    · split
      · exact h
      · next hv =>
        rw [wfFrom_cons]
        refine ⟨hlo, ha, hv, ?_⟩
        rw [wfFrom_cons]
        exact ⟨by simpa using by omega, h2, h3, h4⟩
    · split
      · next hne heq =>
        split
        · exact wfFrom_mono h4 (by omega)
        · next hv =>
          rw [wfFrom_cons]
          exact ⟨hlo, ha, hv, by rw [heq]; exact h4⟩
      · rw [wfFrom_cons]
        exact ⟨h1, h2, h3, ih _ h4 (by omega)⟩

/-- Writing keeps the canonical form. -/
theorem Memory.wf_write (mem : Memory) (a : Addr) (v : Byte) (h : mem.wf = true) : (mem.write a v).wf = true :=
  wfFrom_writeAt mem 0 a.toNat v h (Nat.zero_le _) a.isLt

theorem Memory.read_write_same (mem : Memory) (a : Addr) (v : Byte) (h : mem.wf = true) : (mem.write a v).read a = v :=
  readAt_writeAt_same mem 0 a.toNat v h

theorem Memory.read_write_other (mem : Memory) (a b : Addr) (v : Byte) (h : b ≠ a) :
    (mem.write a v).read b = mem.read b :=
  readAt_writeAt_other mem _ _ v (fun e => h (BitVec.eq_of_toNat_eq e))

/-- A register space made from contents is canonical. -/
theorem Memory.wf_ofContents (f : Nat → Byte) (n : Nat) (h : n ≤ spaceSize) : (Memory.ofContents f n).wf = true := by
  induction n with
  | zero => rfl
  | succ n ih =>
    exact wfFrom_writeAt _ 0 n (f n) (ih (by omega)) (Nat.zero_le _) (by omega)

end Sys2Proof.Machine
end

