-- ==== Sys2Proof/Laws/Environment.lean ====
section
/-! SUPPORT. What the environment can do: completion of its transfers, and the canonical form of the reference device's
registers. -/

namespace Sys2Proof.Machine

variable (l : Lines) (d : Device) (v : Level) (tx : Byte) (n k : Nat) (e : Env)

@[simp] theorem onCs_unconstrained (as : List (Option Byte)) :
    (Env.unconstrained as).onCs l d v = .unconstrained as := rfl

theorem onCs_refDev (r : RefDev) : ∃ r', (Env.refDev r).onCs l d v = .refDev r' := by
  cases d <;> exact ⟨_, rfl⟩

/-- Driving a line keeps the registers of the sub-device. -/
@[simp] theorem onCs_reg (was : Level) (x : RefDevice) : (x.onCs was v).reg = x.reg := by
  unfold RefDevice.onCs
  cases v with
  | low => simp only []; split <;> rfl
  | high => rfl

/-- Driving a line keeps the registers. -/
@[simp] theorem regs_onCs (d' : Device) : (e.onCs l d v).regs d' = e.regs d' := by
  cases e with
  | unconstrained as => rfl
  | refDev r => cases d <;> cases d' <;> simp [Env.onCs, Env.regs, RefDev.sub, RefDev.withSub]

@[simp] theorem regAt_onCs (d' : Device) (a : Addr) : (e.onCs l d v).regAt d' a = e.regAt d' a := by
  simp [Env.regAt]

@[simp] theorem memWf_onCs : (e.onCs l d v).memWf = e.memWf := by
  cases e with
  | unconstrained as => rfl
  | refDev r => cases d <;> simp [Env.onCs, Env.memWf, RefDev.sub, RefDev.withSub]

/-- Driving a line does not change which transfers complete. -/
@[simp] theorem completes_onCs : (e.onCs l d v).completes k n = e.completes k n := by
  cases e with
  | unconstrained as => rfl
  | refDev r => cases d <;> simp [Env.onCs, Env.completes]

@[simp] theorem completes_refDev (r : RefDev) : (Env.refDev r).completes k n = true := by
  simp [Env.completes]

@[simp] theorem completes_zero : e.completes 0 n = true := by
  cases e <;> simp [Env.completes]

/-- Everything a transfer with the line of `d` alone low can do (20_memory.md R78, R79). -/
theorem answerFrom_cases (r : RefDev) :
    (r.outside = true ∧ r.answerFrom d tx n = ⟨some (Config.freeByte n), .refDev r⟩) ∨
    ∃ x : Answered, r.outside = false ∧ x = (r.sub d).answer tx (Config.freeByte n) ∧
      r.answerFrom d tx n = ⟨some x.rx, .refDev { r.withSub d x.device with outside := x.outside }⟩ := by
  unfold RefDev.answerFrom
  cases ho : r.outside with
  | true => exact .inl ⟨rfl, rfl⟩
  | false => exact .inr ⟨_, rfl, rfl, rfl⟩

/-- The reference device answers every transfer (20_memory.md R82) and stays the reference device. -/
theorem refDev_answer (r : RefDev) : ∃ rx r', r.answer l tx n = ⟨some rx, .refDev r'⟩ := by
  unfold RefDev.answer
  split
  · rcases answerFrom_cases .ag tx n r with ⟨-, h⟩ | ⟨x, -, -, h⟩ <;> exact ⟨_, _, h⟩
  · rcases answerFrom_cases .m tx n r with ⟨-, h⟩ | ⟨x, -, -, h⟩ <;> exact ⟨_, _, h⟩
  · exact ⟨_, _, rfl⟩
  · exact ⟨_, _, rfl⟩

/-- Whether the next transfers complete, one transfer at a time. -/
theorem completes_succ : e.completes (k + 1) n =
    ((e.answer l tx n).rx.isSome && (e.answer l tx n).env.completes k (n + 1)) := by
  cases e with
  | unconstrained as => cases as <;> simp [Env.completes, Env.answer]
  | refDev r =>
    obtain ⟨rx, r', h⟩ := refDev_answer l tx n r
    simp [Env.answer, h]

/-- The next transfers complete exactly where the environment answers them. -/
theorem answers_isSome (txs : List Byte) : (e.answers l txs n).isSome = e.completes txs.length n := by
  induction txs generalizing e n with
  | nil => simp [Env.answers]
  | cons tx txs ih =>
    rw [List.length_cons, completes_succ l tx, Env.answers]
    rcases h : e.answer l tx n with ⟨rx, e'⟩
    cases rx with
    | none => simp
    | some rx =>
      simp only [Option.isSome_some, Bool.true_and, ← ih]
      cases e'.answers l txs (n + 1) <;> rfl

/-- Every transfer of a completed run has its byte. -/
theorem answers_length {txs rxs : List Byte} {e' : Env} (h : e.answers l txs n = some (rxs, e')) :
    rxs.length = txs.length := by
  induction txs generalizing e n rxs with
  | nil => simp [Env.answers] at h; simp [h.1.symm]
  | cons tx txs ih =>
    rw [Env.answers] at h
    split at h
    · simp at h
    · split at h
      · simp at h
      · next hx =>
        simp only [Option.some.injEq, Prod.mk.injEq] at h
        rw [← h.1, List.length_cons, List.length_cons, ih _ _ (h.2 ▸ hx)]

theorem wf_answer (x : RefDevice) (free : Byte) (h : x.reg.wf = true) : (x.answer tx free).device.reg.wf = true := by
  unfold RefDevice.answer
  split
  · exact h
  · exact h
  · split
    · exact h
    · split
      · exact h
      · simp only [RefDevice.takeData]
        split
        · exact Memory.wf_write _ _ _ h
        · exact h

theorem wf_unknownReg : (unknownReg n d).wf = true := by
  unfold unknownReg
  generalize hk : spaceSize = k
  exact Memory.wf_ofContents _ k (Nat.le_of_eq hk.symm)

theorem wf_unknown (x : RefDevice) : (x.unknown n d).reg.wf = true := wf_unknownReg d n

theorem memWf_refDev (r : RefDev) : (Env.refDev r).memWf = true ↔ ∀ d, (r.sub d).reg.wf = true := by
  simp only [Env.memWf, Bool.and_eq_true]
  exact ⟨fun h d => by cases d <;> simp [RefDev.sub, h], fun h => ⟨h .ag, h .m⟩⟩

theorem memWf_answerFrom (r : RefDev) (h : ∀ d, (r.sub d).reg.wf = true) : (r.answerFrom d tx n).env.memWf = true := by
  rcases answerFrom_cases d tx n r with ⟨-, ha⟩ | ⟨x, -, hx, ha⟩ <;> rw [ha]
  · exact (memWf_refDev r).2 h
  · have hd : x.device.reg.wf = true := hx ▸ wf_answer tx _ _ (h d)
    refine (memWf_refDev _).2 fun d' => ?_
    have hs : ∀ d, (r.sub d).reg.wf = true := h
    cases d <;> cases d' <;> first | exact hd | exact hs .ag | exact hs .m

/-- Answering a transfer keeps the canonical form of the registers. -/
theorem memWf_answer (h : e.memWf = true) : (e.answer l tx n).env.memWf = true := by
  cases e with
  | unconstrained as => cases as <;> rfl
  | refDev r =>
    have hr := (memWf_refDev r).1 h
    simp only [Env.answer, RefDev.answer]
    split
    · exact memWf_answerFrom .ag tx n r hr
    · exact memWf_answerFrom .m tx n r hr
    · exact h
    · simp [Env.memWf, wf_unknown]

end Sys2Proof.Machine
end

