-- ==== Sys2Proof/Laws/Operands.lean ====
section
/-! SUPPORT. What the operand forms give: the bits of a transfer, the fields of the transaction descriptor, the stages of
the scratch register, and the arithmetic of the scaling engine. -/

namespace Sys2Proof.Machine

/-- R144: the byte sampled is the byte driven, bit for bit. -/
@[simp] theorem sampleBits_wireBits (b : Byte) : sampleBits (wireBits b) = b := by
  revert b; decide

theorem Device.code_lt (d : Device) : d.code < 2 := by cases d <;> decide

@[simp] theorem Device.ofCode_code (d : Device) : Device.ofCode d.code = d := by cases d <;> rfl

theorem flagBit_lt (b : Bool) : flagBit b < 2 := by cases b <;> decide

theorem flagBit_eq_one (b : Bool) : decide (flagBit b = 1) = b := by cases b <;> rfl

theorem readByte_toNat (a : Addr) : (readByte a).toNat = 128 + a.toNat := by
  revert a; decide

theorem writeByte_toNat (a : Addr) : (writeByte a).toNat = a.toNat := by
  revert a; decide

/-- R101: the address byte of a read is the address with the read flag. -/
@[simp] theorem addrByte_read (d : Device) (p q : Bool) (a : Addr) (v : Byte) :
    Td.addrByte ⟨d, p, q, true, a, v⟩ = readByte a := by
  simp only [Td.addrByte]
  revert a; decide

/-- R101: the address byte of a write is the address with bit 7 = 0. -/
@[simp] theorem addrByte_write (d : Device) (p q : Bool) (a : Addr) (v : Byte) :
    Td.addrByte ⟨d, p, q, false, a, v⟩ = writeByte a := by
  simp only [Td.addrByte]
  revert a; decide

@[simp] theorem dataByte_mk (d : Device) (p q r : Bool) (a : Addr) (v : Byte) :
    Td.dataByte ⟨d, p, q, r, a, v⟩ = v := rfl

theorem Td.word_toNat (td : Td) : td.word.toNat = td.dev.code * 2 ^ 18 + flagBit td.bcm1 * 2 ^ 17
    + flagBit td.ainc * 2 ^ 16 + flagBit td.rw * 2 ^ 15 + td.addr.toNat * 2 ^ 8 + td.data.toNat := by
  have h1 := Device.code_lt td.dev
  have h2 := flagBit_lt td.bcm1
  have h3 := flagBit_lt td.ainc
  have h4 := flagBit_lt td.rw
  have h5 := td.addr.isLt
  have h6 := td.data.isLt
  rw [Td.word, BitVec.toNat_ofNat, Nat.mod_eq_of_lt]
  omega

theorem Td.addrByte_toNat (td : Td) : td.addrByte.toNat = flagBit td.rw * 128 + td.addr.toNat := by
  obtain ⟨d, p, q, r, a, v⟩ := td
  cases r
  · rw [addrByte_write, writeByte_toNat]; simp [flagBit]
  · rw [addrByte_read, readByte_toNat]; simp [flagBit]

/-- R32: the address byte is `TD[15:8]`. -/
theorem Td.slice_word_addrByte (td : Td) : slice td.word 15 8 = td.addrByte.toNat := by
  have h4 := flagBit_lt td.rw
  have h5 := td.addr.isLt
  have h6 := td.data.isLt
  simp only [slice, Td.word_toNat, Td.addrByte_toNat]
  omega

/-- R32: the data byte is `TD[7:0]`. -/
theorem Td.slice_word_data (td : Td) : slice td.word 7 0 = td.dataByte.toNat := by
  have h6 := td.data.isLt
  simp only [slice, Td.word_toNat, Td.dataByte]
  omega

theorem lowStage_eq (lo : Byte) : lowStage lo = assemble 1 lo 0 := rfl

/-- The two stages of a 2-byte read assemble the raw value. -/
@[simp] theorem highStage_lowStage (lo hi : Byte) : highStage (lowStage lo) hi = assemble 2 lo hi := by
  simp only [highStage, lowStage, assemble, if_true]
  congr 1
  revert lo; decide

theorem assemble_two_eq (lo hi : Byte) : assemble 2 lo hi = hi ++ lo := by
  apply BitVec.eq_of_getLsbD_eq
  intro i hi'
  have hr : (hi ++ lo : BitVec 16).getLsbD i = if i < 8 then lo.getLsbD i else hi.getLsbD (i - 8) :=
    BitVec.getLsbD_append (x := hi) (y := lo)
  rw [hr]
  by_cases h8 : i < 8
  · simp [assemble, h8, hi']
  · simp [assemble, h8, hi', BitVec.getLsbD_of_ge lo i (by omega)]

theorem assemble_two_toNat (lo hi : Byte) : (assemble 2 lo hi).toNat = hi.toNat * 256 + lo.toNat := by
  rw [assemble_two_eq]
  have h := lo.isLt
  rw [BitVec.toNat_append, ← Nat.shiftLeft_add_eq_or_of_lt h, Nat.shiftLeft_eq]

theorem assemble_one_toNat (lo hi : Byte) : (assemble 1 lo hi).toNat = lo.toNat := by
  have h := lo.isLt
  simp only [assemble, OfNat.one_ne_ofNat, if_false, BitVec.toNat_setWidth]
  omega

section arithmetic

variable (k : ScaleKind) (raw : Half)

theorem sint16_bounds : -32768 ≤ sint16 raw ∧ sint16 raw ≤ 32767 := by
  have h := BitVec.isLt raw
  rw [sint16, BitVec.toInt_eq_toNat_cond]
  split <;> omega

theorem ScaleKind.num_pos : 0 < k.num := by cases k <;> decide

theorem ScaleKind.den_pos : 0 < k.den := by cases k <;> decide

end arithmetic

end Sys2Proof.Machine
end

