-- ==== Sys2Proof/Laws/State.lean ====
section
/-! SUPPORT. One lemma per field for each named update of the state, true by rfl, so that no proof unfolds an update. -/

namespace Sys2Proof.Machine

variable (s : State)

@[simp] theorem csDrive_txbuf (d : Device) (v : Level) : (s.csDrive d v).txbuf = s.txbuf := rfl
@[simp] theorem csDrive_rxbuf (d : Device) (v : Level) : (s.csDrive d v).rxbuf = s.rxbuf := rfl
@[simp] theorem csDrive_rdxbuf (d : Device) (v : Level) : (s.csDrive d v).rdxbuf = s.rdxbuf := rfl
@[simp] theorem csDrive_res (d : Device) (v : Level) : (s.csDrive d v).res = s.res := rfl
@[simp] theorem csDrive_seq (d : Device) (v : Level) : (s.csDrive d v).seq = s.seq := rfl
@[simp] theorem csDrive_cmd (d : Device) (v : Level) : (s.csDrive d v).cmd = s.cmd := rfl
@[simp] theorem csDrive_busy (d : Device) (v : Level) : (s.csDrive d v).busy = s.busy := rfl
@[simp] theorem csDrive_initd (d : Device) (v : Level) : (s.csDrive d v).initd = s.initd := rfl
@[simp] theorem csDrive_ill (d : Device) (v : Level) : (s.csDrive d v).ill = s.ill := rfl
@[simp] theorem csDrive_agN (d : Device) (v : Level) : (s.csDrive d v).agN = if d = .ag then v else s.agN := rfl
@[simp] theorem csDrive_mN (d : Device) (v : Level) : (s.csDrive d v).mN = if d = .m then v else s.mN := rfl
@[simp] theorem csDrive_mstr (d : Device) (v : Level) : (s.csDrive d v).mstr = s.mstr := rfl
@[simp] theorem csDrive_msbf (d : Device) (v : Level) : (s.csDrive d v).msbf = s.msbf := rfl
@[simp] theorem csDrive_ckdiv (d : Device) (v : Level) : (s.csDrive d v).ckdiv = s.ckdiv := rfl
@[simp] theorem csDrive_ainc (d : Device) (v : Level) : (s.csDrive d v).ainc = s.ainc := rfl
@[simp] theorem csDrive_td (d : Device) (v : Level) : (s.csDrive d v).td = s.td := rfl
@[simp] theorem csDrive_trace (d : Device) (v : Level) : (s.csDrive d v).trace = s.trace ++ [.cs d v] := rfl
@[simp] theorem csDrive_strobe (d : Device) (v : Level) : (s.csDrive d v).strobe = s.strobe := rfl
@[simp] theorem csDrive_hasValue (d : Device) (v : Level) : (s.csDrive d v).hasValue = s.hasValue := rfl
@[simp] theorem csDrive_host (d : Device) (v : Level) : (s.csDrive d v).host = s.host := rfl
@[simp] theorem csDrive_hostFault (d : Device) (v : Level) : (s.csDrive d v).hostFault = s.hostFault := rfl
@[simp] theorem csDrive_resets (d : Device) (v : Level) : (s.csDrive d v).resets = s.resets := rfl
@[simp] theorem csDrive_env (d : Device) (v : Level) : (s.csDrive d v).env = s.env.onCs s.lines d v := rfl
@[simp] theorem csDrive_draws (d : Device) (v : Level) : (s.csDrive d v).draws = s.draws := rfl

@[simp] theorem configure_txbuf : (s.configure).txbuf = s.txbuf := rfl
@[simp] theorem configure_rxbuf : (s.configure).rxbuf = s.rxbuf := rfl
@[simp] theorem configure_rdxbuf : (s.configure).rdxbuf = s.rdxbuf := rfl
@[simp] theorem configure_res : (s.configure).res = s.res := rfl
@[simp] theorem configure_seq : (s.configure).seq = s.seq := rfl
@[simp] theorem configure_cmd : (s.configure).cmd = s.cmd := rfl
@[simp] theorem configure_busy : (s.configure).busy = s.busy := rfl
@[simp] theorem configure_initd : (s.configure).initd = s.initd := rfl
@[simp] theorem configure_ill : (s.configure).ill = s.ill := rfl
@[simp] theorem configure_agN : (s.configure).agN = s.agN := rfl
@[simp] theorem configure_mN : (s.configure).mN = s.mN := rfl
@[simp] theorem configure_mstr : (s.configure).mstr = true := rfl
@[simp] theorem configure_msbf : (s.configure).msbf = true := rfl
@[simp] theorem configure_ckdiv : (s.configure).ckdiv = Config.bitclkDiv := rfl
@[simp] theorem configure_ainc : (s.configure).ainc = true := rfl
@[simp] theorem configure_td : (s.configure).td = s.td := rfl
@[simp] theorem configure_trace : (s.configure).trace = s.trace ++ [.cfgw true true Config.bitclkDiv true] := rfl
@[simp] theorem configure_strobe : (s.configure).strobe = s.strobe := rfl
@[simp] theorem configure_hasValue : (s.configure).hasValue = s.hasValue := rfl
@[simp] theorem configure_host : (s.configure).host = s.host := rfl
@[simp] theorem configure_hostFault : (s.configure).hostFault = s.hostFault := rfl
@[simp] theorem configure_resets : (s.configure).resets = s.resets := rfl
@[simp] theorem configure_env : (s.configure).env = s.env := rfl
@[simp] theorem configure_draws : (s.configure).draws = s.draws := rfl

@[simp] theorem startShift_txbuf (b : Byte) : (s.startShift b).txbuf = b := rfl
@[simp] theorem startShift_rxbuf (b : Byte) : (s.startShift b).rxbuf = s.rxbuf := rfl
@[simp] theorem startShift_rdxbuf (b : Byte) : (s.startShift b).rdxbuf = s.rdxbuf := rfl
@[simp] theorem startShift_res (b : Byte) : (s.startShift b).res = s.res := rfl
@[simp] theorem startShift_seq (b : Byte) : (s.startShift b).seq = s.seq := rfl
@[simp] theorem startShift_cmd (b : Byte) : (s.startShift b).cmd = s.cmd := rfl
@[simp] theorem startShift_busy (b : Byte) : (s.startShift b).busy = true := rfl
@[simp] theorem startShift_initd (b : Byte) : (s.startShift b).initd = s.initd := rfl
@[simp] theorem startShift_ill (b : Byte) : (s.startShift b).ill = s.ill := rfl
@[simp] theorem startShift_agN (b : Byte) : (s.startShift b).agN = s.agN := rfl
@[simp] theorem startShift_mN (b : Byte) : (s.startShift b).mN = s.mN := rfl
@[simp] theorem startShift_mstr (b : Byte) : (s.startShift b).mstr = s.mstr := rfl
@[simp] theorem startShift_msbf (b : Byte) : (s.startShift b).msbf = s.msbf := rfl
@[simp] theorem startShift_ckdiv (b : Byte) : (s.startShift b).ckdiv = s.ckdiv := rfl
@[simp] theorem startShift_ainc (b : Byte) : (s.startShift b).ainc = s.ainc := rfl
@[simp] theorem startShift_td (b : Byte) : (s.startShift b).td = s.td := rfl
@[simp] theorem startShift_trace (b : Byte) : (s.startShift b).trace = s.trace := rfl
@[simp] theorem startShift_strobe (b : Byte) : (s.startShift b).strobe = s.strobe := rfl
@[simp] theorem startShift_hasValue (b : Byte) : (s.startShift b).hasValue = s.hasValue := rfl
@[simp] theorem startShift_host (b : Byte) : (s.startShift b).host = s.host := rfl
@[simp] theorem startShift_hostFault (b : Byte) : (s.startShift b).hostFault = s.hostFault := rfl
@[simp] theorem startShift_resets (b : Byte) : (s.startShift b).resets = s.resets := rfl
@[simp] theorem startShift_env (b : Byte) : (s.startShift b).env = s.env := rfl
@[simp] theorem startShift_draws (b : Byte) : (s.startShift b).draws = s.draws + 1 := rfl

@[simp] theorem endShift_txbuf (b r : Byte) : (s.endShift b r).txbuf = s.txbuf := rfl
@[simp] theorem endShift_rxbuf (b r : Byte) : (s.endShift b r).rxbuf = sampleBits (wireBits r) := rfl
@[simp] theorem endShift_rdxbuf (b r : Byte) : (s.endShift b r).rdxbuf = s.rdxbuf := rfl
@[simp] theorem endShift_res (b r : Byte) : (s.endShift b r).res = s.res := rfl
@[simp] theorem endShift_seq (b r : Byte) : (s.endShift b r).seq = s.seq := rfl
@[simp] theorem endShift_cmd (b r : Byte) : (s.endShift b r).cmd = s.cmd := rfl
@[simp] theorem endShift_busy (b r : Byte) : (s.endShift b r).busy = false := rfl
@[simp] theorem endShift_initd (b r : Byte) : (s.endShift b r).initd = s.initd := rfl
@[simp] theorem endShift_ill (b r : Byte) : (s.endShift b r).ill = s.ill := rfl
@[simp] theorem endShift_agN (b r : Byte) : (s.endShift b r).agN = s.agN := rfl
@[simp] theorem endShift_mN (b r : Byte) : (s.endShift b r).mN = s.mN := rfl
@[simp] theorem endShift_mstr (b r : Byte) : (s.endShift b r).mstr = s.mstr := rfl
@[simp] theorem endShift_msbf (b r : Byte) : (s.endShift b r).msbf = s.msbf := rfl
@[simp] theorem endShift_ckdiv (b r : Byte) : (s.endShift b r).ckdiv = s.ckdiv := rfl
@[simp] theorem endShift_ainc (b r : Byte) : (s.endShift b r).ainc = s.ainc := rfl
@[simp] theorem endShift_td (b r : Byte) : (s.endShift b r).td = s.td := rfl
@[simp] theorem endShift_trace (b r : Byte) : (s.endShift b r).trace = s.trace ++ [.xfer b (sampleBits (wireBits r))] := rfl
@[simp] theorem endShift_strobe (b r : Byte) : (s.endShift b r).strobe = s.strobe := rfl
@[simp] theorem endShift_hasValue (b r : Byte) : (s.endShift b r).hasValue = s.hasValue := rfl
@[simp] theorem endShift_host (b r : Byte) : (s.endShift b r).host = s.host := rfl
@[simp] theorem endShift_hostFault (b r : Byte) : (s.endShift b r).hostFault = s.hostFault := rfl
@[simp] theorem endShift_resets (b r : Byte) : (s.endShift b r).resets = s.resets := rfl
@[simp] theorem endShift_env (b r : Byte) : (s.endShift b r).env = s.env := rfl
@[simp] theorem endShift_draws (b r : Byte) : (s.endShift b r).draws = s.draws := rfl

@[simp] theorem tick_txbuf : (s.tick).txbuf = s.txbuf := rfl
@[simp] theorem tick_rxbuf : (s.tick).rxbuf = s.rxbuf := rfl
@[simp] theorem tick_rdxbuf : (s.tick).rdxbuf = s.rdxbuf := rfl
@[simp] theorem tick_res : (s.tick).res = s.res := rfl
@[simp] theorem tick_seq : (s.tick).seq = s.seq := rfl
@[simp] theorem tick_cmd : (s.tick).cmd = s.cmd := rfl
@[simp] theorem tick_busy : (s.tick).busy = s.busy := rfl
@[simp] theorem tick_initd : (s.tick).initd = s.initd := rfl
@[simp] theorem tick_ill : (s.tick).ill = s.ill := rfl
@[simp] theorem tick_agN : (s.tick).agN = s.agN := rfl
@[simp] theorem tick_mN : (s.tick).mN = s.mN := rfl
@[simp] theorem tick_mstr : (s.tick).mstr = s.mstr := rfl
@[simp] theorem tick_msbf : (s.tick).msbf = s.msbf := rfl
@[simp] theorem tick_ckdiv : (s.tick).ckdiv = s.ckdiv := rfl
@[simp] theorem tick_ainc : (s.tick).ainc = s.ainc := rfl
@[simp] theorem tick_td : (s.tick).td = s.td := rfl
@[simp] theorem tick_trace : (s.tick).trace = s.trace := rfl
@[simp] theorem tick_strobe : (s.tick).strobe = s.strobe := rfl
@[simp] theorem tick_hasValue : (s.tick).hasValue = s.hasValue := rfl
@[simp] theorem tick_host : (s.tick).host = s.host := rfl
@[simp] theorem tick_hostFault : (s.tick).hostFault = s.hostFault := rfl
@[simp] theorem tick_resets : (s.tick).resets = tickBy 1 s.resets := rfl
@[simp] theorem tick_env : (s.tick).env = s.env := rfl
@[simp] theorem tick_draws : (s.tick).draws = s.draws := rfl

@[simp] theorem countStep_txbuf : (s.countStep).txbuf = s.txbuf := rfl
@[simp] theorem countStep_rxbuf : (s.countStep).rxbuf = s.rxbuf := rfl
@[simp] theorem countStep_rdxbuf : (s.countStep).rdxbuf = s.rdxbuf := rfl
@[simp] theorem countStep_res : (s.countStep).res = s.res := rfl
@[simp] theorem countStep_seq : (s.countStep).seq = s.seq + 1 := rfl
@[simp] theorem countStep_cmd : (s.countStep).cmd = s.cmd := rfl
@[simp] theorem countStep_busy : (s.countStep).busy = s.busy := rfl
@[simp] theorem countStep_initd : (s.countStep).initd = s.initd := rfl
@[simp] theorem countStep_ill : (s.countStep).ill = s.ill := rfl
@[simp] theorem countStep_agN : (s.countStep).agN = s.agN := rfl
@[simp] theorem countStep_mN : (s.countStep).mN = s.mN := rfl
@[simp] theorem countStep_mstr : (s.countStep).mstr = s.mstr := rfl
@[simp] theorem countStep_msbf : (s.countStep).msbf = s.msbf := rfl
@[simp] theorem countStep_ckdiv : (s.countStep).ckdiv = s.ckdiv := rfl
@[simp] theorem countStep_ainc : (s.countStep).ainc = s.ainc := rfl
@[simp] theorem countStep_td : (s.countStep).td = s.td := rfl
@[simp] theorem countStep_trace : (s.countStep).trace = s.trace := rfl
@[simp] theorem countStep_strobe : (s.countStep).strobe = s.strobe := rfl
@[simp] theorem countStep_hasValue : (s.countStep).hasValue = s.hasValue := rfl
@[simp] theorem countStep_host : (s.countStep).host = s.host := rfl
@[simp] theorem countStep_hostFault : (s.countStep).hostFault = s.hostFault := rfl
@[simp] theorem countStep_resets : (s.countStep).resets = tickBy 1 s.resets := rfl
@[simp] theorem countStep_env : (s.countStep).env = s.env := rfl
@[simp] theorem countStep_draws : (s.countStep).draws = s.draws := rfl

@[simp] theorem takeReset_txbuf : (s.takeReset).txbuf = 0 := rfl
@[simp] theorem takeReset_rxbuf : (s.takeReset).rxbuf = 0 := rfl
@[simp] theorem takeReset_rdxbuf : (s.takeReset).rdxbuf = 0 := rfl
@[simp] theorem takeReset_res : (s.takeReset).res = 0 := rfl
@[simp] theorem takeReset_seq : (s.takeReset).seq = 0 := rfl
@[simp] theorem takeReset_cmd : (s.takeReset).cmd = none := rfl
@[simp] theorem takeReset_busy : (s.takeReset).busy = false := rfl
@[simp] theorem takeReset_initd : (s.takeReset).initd = false := rfl
@[simp] theorem takeReset_ill : (s.takeReset).ill = false := rfl
@[simp] theorem takeReset_agN : (s.takeReset).agN = .high := rfl
@[simp] theorem takeReset_mN : (s.takeReset).mN = .high := rfl
@[simp] theorem takeReset_mstr : (s.takeReset).mstr = false := rfl
@[simp] theorem takeReset_msbf : (s.takeReset).msbf = false := rfl
@[simp] theorem takeReset_ckdiv : (s.takeReset).ckdiv = 0 := rfl
@[simp] theorem takeReset_ainc : (s.takeReset).ainc = false := rfl
@[simp] theorem takeReset_td : (s.takeReset).td = ⟨.ag, false, false, false, 0, 0⟩ := rfl
@[simp] theorem takeReset_trace : (s.takeReset).trace = [] := rfl
@[simp] theorem takeReset_strobe : (s.takeReset).strobe = false := rfl
@[simp] theorem takeReset_hasValue : (s.takeReset).hasValue = false := rfl
@[simp] theorem takeReset_host : (s.takeReset).host = s.host := rfl
@[simp] theorem takeReset_hostFault : (s.takeReset).hostFault = s.hostFault := rfl
@[simp] theorem takeReset_resets : (s.takeReset).resets = s.resets.tail := rfl
@[simp] theorem takeReset_env : (s.takeReset).env = s.raiseLines := rfl
@[simp] theorem takeReset_draws : (s.takeReset).draws = s.draws := rfl

@[simp] theorem complete_txbuf (r : Reply) : (s.complete r).txbuf = s.txbuf := rfl
@[simp] theorem complete_rxbuf (r : Reply) : (s.complete r).rxbuf = s.rxbuf := rfl
@[simp] theorem complete_rdxbuf (r : Reply) : (s.complete r).rdxbuf = s.rdxbuf := rfl
@[simp] theorem complete_seq (r : Reply) : (s.complete r).seq = 0 := rfl
@[simp] theorem complete_cmd (r : Reply) : (s.complete r).cmd = none := rfl
@[simp] theorem complete_busy (r : Reply) : (s.complete r).busy = s.busy := rfl
@[simp] theorem complete_initd (r : Reply) : (s.complete r).initd = s.initd := rfl
@[simp] theorem complete_ill (r : Reply) : (s.complete r).ill = s.ill := rfl
@[simp] theorem complete_agN (r : Reply) : (s.complete r).agN = s.agN := rfl
@[simp] theorem complete_mN (r : Reply) : (s.complete r).mN = s.mN := rfl
@[simp] theorem complete_mstr (r : Reply) : (s.complete r).mstr = s.mstr := rfl
@[simp] theorem complete_msbf (r : Reply) : (s.complete r).msbf = s.msbf := rfl
@[simp] theorem complete_ckdiv (r : Reply) : (s.complete r).ckdiv = s.ckdiv := rfl
@[simp] theorem complete_ainc (r : Reply) : (s.complete r).ainc = s.ainc := rfl
@[simp] theorem complete_td (r : Reply) : (s.complete r).td = s.td := rfl
@[simp] theorem complete_trace (r : Reply) : (s.complete r).trace = s.trace := rfl
@[simp] theorem complete_strobe (r : Reply) : (s.complete r).strobe = true := rfl
@[simp] theorem complete_host (r : Reply) : (s.complete r).host = s.host := rfl
@[simp] theorem complete_hostFault (r : Reply) : (s.complete r).hostFault = s.hostFault := rfl
@[simp] theorem complete_resets (r : Reply) : (s.complete r).resets = s.resets := rfl
@[simp] theorem complete_env (r : Reply) : (s.complete r).env = s.env := rfl
@[simp] theorem complete_draws (r : Reply) : (s.complete r).draws = s.draws := rfl

@[simp] theorem wait_txbuf : (s.wait).txbuf = s.txbuf := rfl
@[simp] theorem wait_rxbuf : (s.wait).rxbuf = s.rxbuf := rfl
@[simp] theorem wait_rdxbuf : (s.wait).rdxbuf = s.rdxbuf := rfl
@[simp] theorem wait_res : (s.wait).res = s.res := rfl
@[simp] theorem wait_seq : (s.wait).seq = s.seq := rfl
@[simp] theorem wait_cmd : (s.wait).cmd = s.cmd := rfl
@[simp] theorem wait_busy : (s.wait).busy = s.busy := rfl
@[simp] theorem wait_initd : (s.wait).initd = s.initd := rfl
@[simp] theorem wait_ill : (s.wait).ill = s.ill := rfl
@[simp] theorem wait_agN : (s.wait).agN = s.agN := rfl
@[simp] theorem wait_mN : (s.wait).mN = s.mN := rfl
@[simp] theorem wait_mstr : (s.wait).mstr = s.mstr := rfl
@[simp] theorem wait_msbf : (s.wait).msbf = s.msbf := rfl
@[simp] theorem wait_ckdiv : (s.wait).ckdiv = s.ckdiv := rfl
@[simp] theorem wait_ainc : (s.wait).ainc = s.ainc := rfl
@[simp] theorem wait_td : (s.wait).td = s.td := rfl
@[simp] theorem wait_trace : (s.wait).trace = s.trace := rfl
@[simp] theorem wait_strobe : (s.wait).strobe = false := rfl
@[simp] theorem wait_hasValue : (s.wait).hasValue = false := rfl
@[simp] theorem wait_host : (s.wait).host = s.host := rfl
@[simp] theorem wait_hostFault : (s.wait).hostFault = s.hostFault := rfl
@[simp] theorem wait_resets : (s.wait).resets = tickBy 1 s.resets := rfl
@[simp] theorem wait_env : (s.wait).env = s.env := rfl
@[simp] theorem wait_draws : (s.wait).draws = s.draws := rfl

@[simp] theorem takeIllegal_txbuf : (s.takeIllegal).txbuf = s.txbuf := rfl
@[simp] theorem takeIllegal_rxbuf : (s.takeIllegal).rxbuf = s.rxbuf := rfl
@[simp] theorem takeIllegal_rdxbuf : (s.takeIllegal).rdxbuf = s.rdxbuf := rfl
@[simp] theorem takeIllegal_res : (s.takeIllegal).res = s.res := rfl
@[simp] theorem takeIllegal_seq : (s.takeIllegal).seq = s.seq := rfl
@[simp] theorem takeIllegal_cmd : (s.takeIllegal).cmd = s.cmd := rfl
@[simp] theorem takeIllegal_busy : (s.takeIllegal).busy = s.busy := rfl
@[simp] theorem takeIllegal_initd : (s.takeIllegal).initd = s.initd := rfl
@[simp] theorem takeIllegal_ill : (s.takeIllegal).ill = true := rfl
@[simp] theorem takeIllegal_agN : (s.takeIllegal).agN = s.agN := rfl
@[simp] theorem takeIllegal_mN : (s.takeIllegal).mN = s.mN := rfl
@[simp] theorem takeIllegal_mstr : (s.takeIllegal).mstr = s.mstr := rfl
@[simp] theorem takeIllegal_msbf : (s.takeIllegal).msbf = s.msbf := rfl
@[simp] theorem takeIllegal_ckdiv : (s.takeIllegal).ckdiv = s.ckdiv := rfl
@[simp] theorem takeIllegal_ainc : (s.takeIllegal).ainc = s.ainc := rfl
@[simp] theorem takeIllegal_td : (s.takeIllegal).td = s.td := rfl
@[simp] theorem takeIllegal_trace : (s.takeIllegal).trace = s.trace := rfl
@[simp] theorem takeIllegal_strobe : (s.takeIllegal).strobe = true := rfl
@[simp] theorem takeIllegal_hasValue : (s.takeIllegal).hasValue = false := rfl
@[simp] theorem takeIllegal_host : (s.takeIllegal).host = s.host := rfl
@[simp] theorem takeIllegal_hostFault : (s.takeIllegal).hostFault = true := rfl
@[simp] theorem takeIllegal_resets : (s.takeIllegal).resets = s.resets := rfl
@[simp] theorem takeIllegal_env : (s.takeIllegal).env = s.env := rfl
@[simp] theorem takeIllegal_draws : (s.takeIllegal).draws = s.draws := rfl

@[simp] theorem take_txbuf (w : List Word) : (s.take w).txbuf = s.txbuf := rfl
@[simp] theorem take_rxbuf (w : List Word) : (s.take w).rxbuf = s.rxbuf := rfl
@[simp] theorem take_rdxbuf (w : List Word) : (s.take w).rdxbuf = s.rdxbuf := rfl
@[simp] theorem take_res (w : List Word) : (s.take w).res = s.res := rfl
@[simp] theorem take_seq (w : List Word) : (s.take w).seq = s.seq := rfl
@[simp] theorem take_cmd (w : List Word) : (s.take w).cmd = s.cmd := rfl
@[simp] theorem take_busy (w : List Word) : (s.take w).busy = s.busy := rfl
@[simp] theorem take_initd (w : List Word) : (s.take w).initd = s.initd := rfl
@[simp] theorem take_ill (w : List Word) : (s.take w).ill = s.ill := rfl
@[simp] theorem take_agN (w : List Word) : (s.take w).agN = s.agN := rfl
@[simp] theorem take_mN (w : List Word) : (s.take w).mN = s.mN := rfl
@[simp] theorem take_mstr (w : List Word) : (s.take w).mstr = s.mstr := rfl
@[simp] theorem take_msbf (w : List Word) : (s.take w).msbf = s.msbf := rfl
@[simp] theorem take_ckdiv (w : List Word) : (s.take w).ckdiv = s.ckdiv := rfl
@[simp] theorem take_ainc (w : List Word) : (s.take w).ainc = s.ainc := rfl
@[simp] theorem take_td (w : List Word) : (s.take w).td = s.td := rfl
@[simp] theorem take_trace (w : List Word) : (s.take w).trace = s.trace := rfl
@[simp] theorem take_strobe (w : List Word) : (s.take w).strobe = s.strobe := rfl
@[simp] theorem take_hasValue (w : List Word) : (s.take w).hasValue = s.hasValue := rfl
@[simp] theorem take_host (w : List Word) : (s.take w).host = w := rfl
@[simp] theorem take_hostFault (w : List Word) : (s.take w).hostFault = s.hostFault := rfl
@[simp] theorem take_resets (w : List Word) : (s.take w).resets = tickBy 1 s.resets := rfl
@[simp] theorem take_env (w : List Word) : (s.take w).env = s.env := rfl
@[simp] theorem take_draws (w : List Word) : (s.take w).draws = s.draws := rfl

@[simp] theorem booted_txbuf : (s.booted).txbuf = s.txbuf := rfl
@[simp] theorem booted_rxbuf : (s.booted).rxbuf = s.rxbuf := rfl
@[simp] theorem booted_rdxbuf : (s.booted).rdxbuf = s.rdxbuf := rfl
@[simp] theorem booted_res : (s.booted).res = s.res := rfl
@[simp] theorem booted_seq : (s.booted).seq = s.seq := rfl
@[simp] theorem booted_cmd : (s.booted).cmd = s.cmd := rfl
@[simp] theorem booted_busy : (s.booted).busy = s.busy := rfl
@[simp] theorem booted_initd : (s.booted).initd = true := rfl
@[simp] theorem booted_ill : (s.booted).ill = s.ill := rfl
@[simp] theorem booted_agN : (s.booted).agN = s.agN := rfl
@[simp] theorem booted_mN : (s.booted).mN = s.mN := rfl
@[simp] theorem booted_mstr : (s.booted).mstr = true := rfl
@[simp] theorem booted_msbf : (s.booted).msbf = true := rfl
@[simp] theorem booted_ckdiv : (s.booted).ckdiv = Config.bitclkDiv := rfl
@[simp] theorem booted_ainc : (s.booted).ainc = true := rfl
@[simp] theorem booted_td : (s.booted).td = s.td := rfl
@[simp] theorem booted_trace : (s.booted).trace = s.trace := rfl
@[simp] theorem booted_strobe : (s.booted).strobe = s.strobe := rfl
@[simp] theorem booted_hasValue : (s.booted).hasValue = s.hasValue := rfl
@[simp] theorem booted_host : (s.booted).host = s.host := rfl
@[simp] theorem booted_hostFault : (s.booted).hostFault = s.hostFault := rfl
@[simp] theorem booted_resets : (s.booted).resets = s.resets := rfl
@[simp] theorem booted_env : (s.booted).env = s.env := rfl
@[simp] theorem booted_draws : (s.booted).draws = s.draws := rfl

@[simp] theorem complete_noValue_res : (s.complete .noValue).res = s.res := rfl
@[simp] theorem complete_noValue_hasValue : (s.complete .noValue).hasValue = false := rfl
@[simp] theorem complete_received_res : (s.complete .received).res = s.rxbuf.setWidth 16 := rfl
@[simp] theorem complete_received_hasValue : (s.complete .received).hasValue = true := rfl
@[simp] theorem complete_raw_res : (s.complete .raw).res = s.rdxbuf := rfl
@[simp] theorem complete_raw_hasValue : (s.complete .raw).hasValue = true := rfl
@[simp] theorem complete_scaled_res (k : ScaleKind) : (s.complete (.scaled k)).res = scale k s.rdxbuf := rfl
@[simp] theorem complete_scaled_hasValue (k : ScaleKind) : (s.complete (.scaled k)).hasValue = true := rfl

@[simp] theorem assign_loadTd_txbuf (d : Device) (p q : Bool) (a : Addr) (v : Byte) : (s.assign (.loadTd d p q a v)).txbuf = s.txbuf := rfl
@[simp] theorem assign_loadTd_rxbuf (d : Device) (p q : Bool) (a : Addr) (v : Byte) : (s.assign (.loadTd d p q a v)).rxbuf = s.rxbuf := rfl
@[simp] theorem assign_loadTd_rdxbuf (d : Device) (p q : Bool) (a : Addr) (v : Byte) : (s.assign (.loadTd d p q a v)).rdxbuf = s.rdxbuf := rfl
@[simp] theorem assign_loadTd_res (d : Device) (p q : Bool) (a : Addr) (v : Byte) : (s.assign (.loadTd d p q a v)).res = s.res := rfl
@[simp] theorem assign_loadTd_seq (d : Device) (p q : Bool) (a : Addr) (v : Byte) : (s.assign (.loadTd d p q a v)).seq = s.seq := rfl
@[simp] theorem assign_loadTd_cmd (d : Device) (p q : Bool) (a : Addr) (v : Byte) : (s.assign (.loadTd d p q a v)).cmd = s.cmd := rfl
@[simp] theorem assign_loadTd_busy (d : Device) (p q : Bool) (a : Addr) (v : Byte) : (s.assign (.loadTd d p q a v)).busy = s.busy := rfl
@[simp] theorem assign_loadTd_initd (d : Device) (p q : Bool) (a : Addr) (v : Byte) : (s.assign (.loadTd d p q a v)).initd = s.initd := rfl
@[simp] theorem assign_loadTd_ill (d : Device) (p q : Bool) (a : Addr) (v : Byte) : (s.assign (.loadTd d p q a v)).ill = s.ill := rfl
@[simp] theorem assign_loadTd_agN (d : Device) (p q : Bool) (a : Addr) (v : Byte) : (s.assign (.loadTd d p q a v)).agN = s.agN := rfl
@[simp] theorem assign_loadTd_mN (d : Device) (p q : Bool) (a : Addr) (v : Byte) : (s.assign (.loadTd d p q a v)).mN = s.mN := rfl
@[simp] theorem assign_loadTd_mstr (d : Device) (p q : Bool) (a : Addr) (v : Byte) : (s.assign (.loadTd d p q a v)).mstr = s.mstr := rfl
@[simp] theorem assign_loadTd_msbf (d : Device) (p q : Bool) (a : Addr) (v : Byte) : (s.assign (.loadTd d p q a v)).msbf = s.msbf := rfl
@[simp] theorem assign_loadTd_ckdiv (d : Device) (p q : Bool) (a : Addr) (v : Byte) : (s.assign (.loadTd d p q a v)).ckdiv = s.ckdiv := rfl
@[simp] theorem assign_loadTd_ainc (d : Device) (p q : Bool) (a : Addr) (v : Byte) : (s.assign (.loadTd d p q a v)).ainc = s.ainc := rfl
@[simp] theorem assign_loadTd_td (d : Device) (p q : Bool) (a : Addr) (v : Byte) : (s.assign (.loadTd d p q a v)).td = ⟨d, p, s.ainc, q, a, v⟩ := rfl
@[simp] theorem assign_loadTd_trace (d : Device) (p q : Bool) (a : Addr) (v : Byte) : (s.assign (.loadTd d p q a v)).trace = s.trace := rfl
@[simp] theorem assign_loadTd_strobe (d : Device) (p q : Bool) (a : Addr) (v : Byte) : (s.assign (.loadTd d p q a v)).strobe = s.strobe := rfl
@[simp] theorem assign_loadTd_hasValue (d : Device) (p q : Bool) (a : Addr) (v : Byte) : (s.assign (.loadTd d p q a v)).hasValue = s.hasValue := rfl
@[simp] theorem assign_loadTd_host (d : Device) (p q : Bool) (a : Addr) (v : Byte) : (s.assign (.loadTd d p q a v)).host = s.host := rfl
@[simp] theorem assign_loadTd_hostFault (d : Device) (p q : Bool) (a : Addr) (v : Byte) : (s.assign (.loadTd d p q a v)).hostFault = s.hostFault := rfl
@[simp] theorem assign_loadTd_resets (d : Device) (p q : Bool) (a : Addr) (v : Byte) : (s.assign (.loadTd d p q a v)).resets = s.resets := rfl
@[simp] theorem assign_loadTd_env (d : Device) (p q : Bool) (a : Addr) (v : Byte) : (s.assign (.loadTd d p q a v)).env = s.env := rfl
@[simp] theorem assign_loadTd_draws (d : Device) (p q : Bool) (a : Addr) (v : Byte) : (s.assign (.loadTd d p q a v)).draws = s.draws := rfl

@[simp] theorem assign_rdxLow_txbuf : (s.assign .rdxLow).txbuf = s.txbuf := rfl
@[simp] theorem assign_rdxLow_rxbuf : (s.assign .rdxLow).rxbuf = s.rxbuf := rfl
@[simp] theorem assign_rdxLow_rdxbuf : (s.assign .rdxLow).rdxbuf = lowStage s.rxbuf := rfl
@[simp] theorem assign_rdxLow_res : (s.assign .rdxLow).res = s.res := rfl
@[simp] theorem assign_rdxLow_seq : (s.assign .rdxLow).seq = s.seq := rfl
@[simp] theorem assign_rdxLow_cmd : (s.assign .rdxLow).cmd = s.cmd := rfl
@[simp] theorem assign_rdxLow_busy : (s.assign .rdxLow).busy = s.busy := rfl
@[simp] theorem assign_rdxLow_initd : (s.assign .rdxLow).initd = s.initd := rfl
@[simp] theorem assign_rdxLow_ill : (s.assign .rdxLow).ill = s.ill := rfl
@[simp] theorem assign_rdxLow_agN : (s.assign .rdxLow).agN = s.agN := rfl
@[simp] theorem assign_rdxLow_mN : (s.assign .rdxLow).mN = s.mN := rfl
@[simp] theorem assign_rdxLow_mstr : (s.assign .rdxLow).mstr = s.mstr := rfl
@[simp] theorem assign_rdxLow_msbf : (s.assign .rdxLow).msbf = s.msbf := rfl
@[simp] theorem assign_rdxLow_ckdiv : (s.assign .rdxLow).ckdiv = s.ckdiv := rfl
@[simp] theorem assign_rdxLow_ainc : (s.assign .rdxLow).ainc = s.ainc := rfl
@[simp] theorem assign_rdxLow_td : (s.assign .rdxLow).td = s.td := rfl
@[simp] theorem assign_rdxLow_trace : (s.assign .rdxLow).trace = s.trace := rfl
@[simp] theorem assign_rdxLow_strobe : (s.assign .rdxLow).strobe = s.strobe := rfl
@[simp] theorem assign_rdxLow_hasValue : (s.assign .rdxLow).hasValue = s.hasValue := rfl
@[simp] theorem assign_rdxLow_host : (s.assign .rdxLow).host = s.host := rfl
@[simp] theorem assign_rdxLow_hostFault : (s.assign .rdxLow).hostFault = s.hostFault := rfl
@[simp] theorem assign_rdxLow_resets : (s.assign .rdxLow).resets = s.resets := rfl
@[simp] theorem assign_rdxLow_env : (s.assign .rdxLow).env = s.env := rfl
@[simp] theorem assign_rdxLow_draws : (s.assign .rdxLow).draws = s.draws := rfl

@[simp] theorem assign_rdxHigh_txbuf : (s.assign .rdxHigh).txbuf = s.txbuf := rfl
@[simp] theorem assign_rdxHigh_rxbuf : (s.assign .rdxHigh).rxbuf = s.rxbuf := rfl
@[simp] theorem assign_rdxHigh_rdxbuf : (s.assign .rdxHigh).rdxbuf = highStage s.rdxbuf s.rxbuf := rfl
@[simp] theorem assign_rdxHigh_res : (s.assign .rdxHigh).res = s.res := rfl
@[simp] theorem assign_rdxHigh_seq : (s.assign .rdxHigh).seq = s.seq := rfl
@[simp] theorem assign_rdxHigh_cmd : (s.assign .rdxHigh).cmd = s.cmd := rfl
@[simp] theorem assign_rdxHigh_busy : (s.assign .rdxHigh).busy = s.busy := rfl
@[simp] theorem assign_rdxHigh_initd : (s.assign .rdxHigh).initd = s.initd := rfl
@[simp] theorem assign_rdxHigh_ill : (s.assign .rdxHigh).ill = s.ill := rfl
@[simp] theorem assign_rdxHigh_agN : (s.assign .rdxHigh).agN = s.agN := rfl
@[simp] theorem assign_rdxHigh_mN : (s.assign .rdxHigh).mN = s.mN := rfl
@[simp] theorem assign_rdxHigh_mstr : (s.assign .rdxHigh).mstr = s.mstr := rfl
@[simp] theorem assign_rdxHigh_msbf : (s.assign .rdxHigh).msbf = s.msbf := rfl
@[simp] theorem assign_rdxHigh_ckdiv : (s.assign .rdxHigh).ckdiv = s.ckdiv := rfl
@[simp] theorem assign_rdxHigh_ainc : (s.assign .rdxHigh).ainc = s.ainc := rfl
@[simp] theorem assign_rdxHigh_td : (s.assign .rdxHigh).td = s.td := rfl
@[simp] theorem assign_rdxHigh_trace : (s.assign .rdxHigh).trace = s.trace := rfl
@[simp] theorem assign_rdxHigh_strobe : (s.assign .rdxHigh).strobe = s.strobe := rfl
@[simp] theorem assign_rdxHigh_hasValue : (s.assign .rdxHigh).hasValue = s.hasValue := rfl
@[simp] theorem assign_rdxHigh_host : (s.assign .rdxHigh).host = s.host := rfl
@[simp] theorem assign_rdxHigh_hostFault : (s.assign .rdxHigh).hostFault = s.hostFault := rfl
@[simp] theorem assign_rdxHigh_resets : (s.assign .rdxHigh).resets = s.resets := rfl
@[simp] theorem assign_rdxHigh_env : (s.assign .rdxHigh).env = s.env := rfl
@[simp] theorem assign_rdxHigh_draws : (s.assign .rdxHigh).draws = s.draws := rfl

@[simp] theorem assign_setInitd_txbuf : (s.assign .setInitd).txbuf = s.txbuf := rfl
@[simp] theorem assign_setInitd_rxbuf : (s.assign .setInitd).rxbuf = s.rxbuf := rfl
@[simp] theorem assign_setInitd_rdxbuf : (s.assign .setInitd).rdxbuf = s.rdxbuf := rfl
@[simp] theorem assign_setInitd_res : (s.assign .setInitd).res = s.res := rfl
@[simp] theorem assign_setInitd_seq : (s.assign .setInitd).seq = s.seq := rfl
@[simp] theorem assign_setInitd_cmd : (s.assign .setInitd).cmd = s.cmd := rfl
@[simp] theorem assign_setInitd_busy : (s.assign .setInitd).busy = s.busy := rfl
@[simp] theorem assign_setInitd_initd : (s.assign .setInitd).initd = true := rfl
@[simp] theorem assign_setInitd_ill : (s.assign .setInitd).ill = s.ill := rfl
@[simp] theorem assign_setInitd_agN : (s.assign .setInitd).agN = s.agN := rfl
@[simp] theorem assign_setInitd_mN : (s.assign .setInitd).mN = s.mN := rfl
@[simp] theorem assign_setInitd_mstr : (s.assign .setInitd).mstr = s.mstr := rfl
@[simp] theorem assign_setInitd_msbf : (s.assign .setInitd).msbf = s.msbf := rfl
@[simp] theorem assign_setInitd_ckdiv : (s.assign .setInitd).ckdiv = s.ckdiv := rfl
@[simp] theorem assign_setInitd_ainc : (s.assign .setInitd).ainc = s.ainc := rfl
@[simp] theorem assign_setInitd_td : (s.assign .setInitd).td = s.td := rfl
@[simp] theorem assign_setInitd_trace : (s.assign .setInitd).trace = s.trace := rfl
@[simp] theorem assign_setInitd_strobe : (s.assign .setInitd).strobe = s.strobe := rfl
@[simp] theorem assign_setInitd_hasValue : (s.assign .setInitd).hasValue = s.hasValue := rfl
@[simp] theorem assign_setInitd_host : (s.assign .setInitd).host = s.host := rfl
@[simp] theorem assign_setInitd_hostFault : (s.assign .setInitd).hostFault = s.hostFault := rfl
@[simp] theorem assign_setInitd_resets : (s.assign .setInitd).resets = s.resets := rfl
@[simp] theorem assign_setInitd_env : (s.assign .setInitd).env = s.env := rfl
@[simp] theorem assign_setInitd_draws : (s.assign .setInitd).draws = s.draws := rfl

@[simp] theorem assigns_nil : s.assigns [] = s := rfl
@[simp] theorem assigns_cons (a : Assign) (as : List Assign) : s.assigns (a :: as) = (s.assign a).assigns as := rfl

/-- What no assignment touches. -/
theorem assigns_field {α : Type} (f : State → α) (h : ∀ (t : State) (a : Assign), f (t.assign a) = f t) (as : List Assign) :
    f (s.assigns as) = f s := by
  induction as generalizing s with
  | nil => rfl
  | cons a as ih => rw [assigns_cons, ih, h]

@[simp] theorem assigns_txbuf (as : List Assign) : (s.assigns as).txbuf = s.txbuf :=
  assigns_field s State.txbuf (fun _ a => by cases a <;> rfl) as
@[simp] theorem assigns_rxbuf (as : List Assign) : (s.assigns as).rxbuf = s.rxbuf :=
  assigns_field s State.rxbuf (fun _ a => by cases a <;> rfl) as
@[simp] theorem assigns_res (as : List Assign) : (s.assigns as).res = s.res :=
  assigns_field s State.res (fun _ a => by cases a <;> rfl) as
@[simp] theorem assigns_seq (as : List Assign) : (s.assigns as).seq = s.seq :=
  assigns_field s State.seq (fun _ a => by cases a <;> rfl) as
@[simp] theorem assigns_cmd (as : List Assign) : (s.assigns as).cmd = s.cmd :=
  assigns_field s State.cmd (fun _ a => by cases a <;> rfl) as
@[simp] theorem assigns_busy (as : List Assign) : (s.assigns as).busy = s.busy :=
  assigns_field s State.busy (fun _ a => by cases a <;> rfl) as
@[simp] theorem assigns_ill (as : List Assign) : (s.assigns as).ill = s.ill :=
  assigns_field s State.ill (fun _ a => by cases a <;> rfl) as
@[simp] theorem assigns_agN (as : List Assign) : (s.assigns as).agN = s.agN :=
  assigns_field s State.agN (fun _ a => by cases a <;> rfl) as
@[simp] theorem assigns_mN (as : List Assign) : (s.assigns as).mN = s.mN :=
  assigns_field s State.mN (fun _ a => by cases a <;> rfl) as
@[simp] theorem assigns_mstr (as : List Assign) : (s.assigns as).mstr = s.mstr :=
  assigns_field s State.mstr (fun _ a => by cases a <;> rfl) as
@[simp] theorem assigns_msbf (as : List Assign) : (s.assigns as).msbf = s.msbf :=
  assigns_field s State.msbf (fun _ a => by cases a <;> rfl) as
@[simp] theorem assigns_ckdiv (as : List Assign) : (s.assigns as).ckdiv = s.ckdiv :=
  assigns_field s State.ckdiv (fun _ a => by cases a <;> rfl) as
@[simp] theorem assigns_ainc (as : List Assign) : (s.assigns as).ainc = s.ainc :=
  assigns_field s State.ainc (fun _ a => by cases a <;> rfl) as
@[simp] theorem assigns_trace (as : List Assign) : (s.assigns as).trace = s.trace :=
  assigns_field s State.trace (fun _ a => by cases a <;> rfl) as
@[simp] theorem assigns_strobe (as : List Assign) : (s.assigns as).strobe = s.strobe :=
  assigns_field s State.strobe (fun _ a => by cases a <;> rfl) as
@[simp] theorem assigns_hasValue (as : List Assign) : (s.assigns as).hasValue = s.hasValue :=
  assigns_field s State.hasValue (fun _ a => by cases a <;> rfl) as
@[simp] theorem assigns_host (as : List Assign) : (s.assigns as).host = s.host :=
  assigns_field s State.host (fun _ a => by cases a <;> rfl) as
@[simp] theorem assigns_hostFault (as : List Assign) : (s.assigns as).hostFault = s.hostFault :=
  assigns_field s State.hostFault (fun _ a => by cases a <;> rfl) as
@[simp] theorem assigns_resets (as : List Assign) : (s.assigns as).resets = s.resets :=
  assigns_field s State.resets (fun _ a => by cases a <;> rfl) as
@[simp] theorem assigns_env (as : List Assign) : (s.assigns as).env = s.env :=
  assigns_field s State.env (fun _ a => by cases a <;> rfl) as
@[simp] theorem assigns_draws (as : List Assign) : (s.assigns as).draws = s.draws :=
  assigns_field s State.draws (fun _ a => by cases a <;> rfl) as

variable (i : Instr) (p : Plan)

@[simp] theorem accept_txbuf : (s.accept i p).txbuf = s.txbuf := by simp [State.accept]
@[simp] theorem accept_rxbuf : (s.accept i p).rxbuf = s.rxbuf := by simp [State.accept]
@[simp] theorem accept_res : (s.accept i p).res = s.res := by simp [State.accept]
@[simp] theorem accept_seq : (s.accept i p).seq = 0 := by simp [State.accept]
@[simp] theorem accept_cmd : (s.accept i p).cmd = some i := by simp [State.accept]
@[simp] theorem accept_busy : (s.accept i p).busy = s.busy := by simp [State.accept]
@[simp] theorem accept_ill : (s.accept i p).ill = s.ill := by simp [State.accept]
@[simp] theorem accept_agN : (s.accept i p).agN = s.agN := by simp [State.accept]
@[simp] theorem accept_mN : (s.accept i p).mN = s.mN := by simp [State.accept]
@[simp] theorem accept_mstr : (s.accept i p).mstr = s.mstr := by simp [State.accept]
@[simp] theorem accept_msbf : (s.accept i p).msbf = s.msbf := by simp [State.accept]
@[simp] theorem accept_ckdiv : (s.accept i p).ckdiv = s.ckdiv := by simp [State.accept]
@[simp] theorem accept_ainc : (s.accept i p).ainc = s.ainc := by simp [State.accept]
@[simp] theorem accept_trace : (s.accept i p).trace = s.trace := by simp [State.accept]
@[simp] theorem accept_strobe : (s.accept i p).strobe = false := by simp [State.accept]
@[simp] theorem accept_hasValue : (s.accept i p).hasValue = false := by simp [State.accept]
@[simp] theorem accept_host : (s.accept i p).host = s.host := by simp [State.accept]
@[simp] theorem accept_hostFault : (s.accept i p).hostFault = s.hostFault := by simp [State.accept]
@[simp] theorem accept_resets : (s.accept i p).resets = s.resets := by simp [State.accept]
@[simp] theorem accept_env : (s.accept i p).env = s.env := by simp [State.accept]
@[simp] theorem accept_draws : (s.accept i p).draws = s.draws := by simp [State.accept]

@[simp] theorem accept_lines : (s.accept i p).lines = s.lines := by simp [State.lines]
@[simp] theorem accept_resetNow : (s.accept i p).resetNow = s.resetNow := by simp [State.resetNow]
@[simp] theorem accept_quietFor (n : Nat) : (s.accept i p).quietFor n = s.quietFor n := by simp [State.quietFor]

end Sys2Proof.Machine
end

