-- ==== Sys2Proof/Laws/Ops.lean ====
section
/-! SUPPORT. What the shared operations can do: the cases of a bus step, the run of a list of bus steps, the frames of a
register transaction, and `exec` as acceptance followed by the run of the command's plan. -/

namespace Sys2Proof.Machine

variable (s t : State)

@[simp] theorem tickBy_zero (r : List Nat) : tickBy 0 r = r := by cases r <;> rfl

@[simp] theorem tickBy_tickBy (m n : Nat) (r : List Nat) : tickBy m (tickBy n r) = tickBy (n + m) r := by
  cases r with
  | nil => rfl
  | cons k rest => simp only [tickBy]; congr 1; omega

theorem quietFor_iff (n : Nat) : s.quietFor n = true ↔ ∀ k ∈ s.resets.head?, n ≤ k := by
  unfold State.quietFor
  cases h : s.resets <;> simp

/-- No reset is asserted in a state that is quiet for at least one tick. -/
theorem resetNow_of_quiet {n : Nat} (h : s.quietFor (n + 1) = true) : s.resetNow = false := by
  unfold State.quietFor at h
  unfold State.resetNow
  cases hr : s.resets with
  | nil => rfl
  | cons k rest =>
    rw [hr] at h
    have hk : n + 1 ≤ k := by simpa using h
    have : k ≠ 0 := by omega
    simpa using this

theorem quietFor_of_resets {n m : Nat} (h : s.quietFor (n + m) = true) (ht : t.resets = tickBy m s.resets) :
    t.quietFor n = true := by
  unfold State.quietFor at *
  rw [ht]
  cases hr : s.resets with
  | nil => rfl
  | cons k rest =>
    rw [hr] at h
    simp only [tickBy, decide_eq_true_eq] at h ⊢
    omega

theorem quietFor_mono {n m : Nat} (h : s.quietFor n = true) (hm : m ≤ n) : s.quietFor m = true := by
  unfold State.quietFor at *
  cases hr : s.resets with
  | nil => rfl
  | cons k rest =>
    rw [hr] at h
    simp only [decide_eq_true_eq] at h ⊢
    omega

/-- A transfer whose answer is known to complete. -/
theorem transfer_running {b rx : Byte} {e : Env} (h : s.env.answer s.lines b s.draws = ⟨some rx, e⟩) :
    s.transfer b = .running { (s.startShift b).endShift b rx with env := e } := by
  rw [State.transfer, h]

/-- A transfer that never completes. -/
theorem transfer_stopped {b : Byte} {e : Env} (h : s.env.answer s.lines b s.draws = ⟨none, e⟩) :
    s.transfer b = .stopped { s.startShift b with env := e } := by
  rw [State.transfer, h]

/-- Everything a bus step can do: reset abandons it, or it is one of the three actions, or its transfer never ends. -/
theorem busStep_cases (b : BusStep) :
    (s.resetNow = true ∧ s.busStep b = .stopped s.takeReset) ∨
    (s.resetNow = false ∧ b.op = .cfgw ∧ s.busStep b = .running (s.configure.countStep.assigns b.after)) ∨
    (∃ d v, s.resetNow = false ∧ b.op = .cs d v ∧
      s.busStep b = .running ((s.csDrive d v).countStep.assigns b.after)) ∨
    (∃ x rx e, s.resetNow = false ∧ b.op = .xfer x ∧ s.env.answer s.lines (x.value s) s.draws = ⟨some rx, e⟩ ∧
      s.busStep b = .running
        (State.assigns b.after { (s.startShift (x.value s)).endShift (x.value s) rx with env := e }.countStep)) ∨
    (∃ x e, s.resetNow = false ∧ b.op = .xfer x ∧ s.env.answer s.lines (x.value s) s.draws = ⟨none, e⟩ ∧
      s.busStep b = .stopped { s.startShift (x.value s) with env := e }) := by
  unfold State.busStep
  cases hr : s.resetNow with
  | true => exact .inl ⟨rfl, rfl⟩
  | false =>
    right
    simp only [Bool.false_eq_true, if_false]
    cases ho : b.op with
    | cfgw => exact .inl ⟨trivial, rfl, rfl⟩
    | cs d v => exact .inr (.inl ⟨d, v, trivial, rfl, rfl⟩)
    | xfer x =>
      right; right
      rcases ha : s.env.answer s.lines (x.value s) s.draws with ⟨rx, e⟩
      cases rx with
      | some rx => exact .inl ⟨x, rx, e, trivial, rfl, ha, by simp [State.perform, transfer_running s ha]⟩
      | none => exact .inr ⟨x, e, trivial, rfl, ha, by simp [State.perform, transfer_stopped s ha]⟩

/-- An induction over the bus steps of a command, packaged once: `P` holds as long as the command runs, `Q` of what it
ends in. -/
theorem runSteps_rule (P : List BusStep → State → Prop) (Q : State → Prop) (r : Reply)
    (hdone : ∀ s, P [] s → Q (s.complete r))
    (hrun : ∀ b bs s t, P (b :: bs) s → s.busStep b = .running t → P bs t)
    (hstop : ∀ b bs s t, P (b :: bs) s → s.busStep b = .stopped t → Q t) :
    ∀ bs s, P bs s → Q (s.runSteps r bs) := by
  intro bs
  induction bs with
  | nil => exact hdone
  | cons b bs ih =>
    intro s h
    unfold State.runSteps
    cases hb : s.busStep b with
    | running t => exact ih t (hrun b bs s t h hb)
    | stopped t => exact hstop b bs s t h hb

/-- A command split at a bus step: the run to that step, then the rest. -/
theorem runSteps_cons_running {b : BusStep} {bs : List BusStep} {r : Reply} (h : s.busStep b = .running t) :
    s.runSteps r (b :: bs) = t.runSteps r bs := by
  rw [State.runSteps, h]

theorem busStep_cs (d : Device) (v : Level) (as : List Assign) (h : s.resetNow = false) :
    s.busStep ⟨.cs d v, as⟩ = .running ((s.csDrive d v).countStep.assigns as) := by
  simp [State.busStep, h, State.perform]

theorem busStep_cfgw (as : List Assign) (h : s.resetNow = false) :
    s.busStep ⟨.cfgw, as⟩ = .running (s.configure.countStep.assigns as) := by
  simp [State.busStep, h, State.perform]

theorem busStep_xfer {x : TxByte} {as : List Assign} {rx : Byte} {e : Env} (h : s.resetNow = false)
    (ha : s.env.answer s.lines (x.value s) s.draws = ⟨some rx, e⟩) :
    s.busStep ⟨.xfer x, as⟩ =
      .running (State.assigns as { (s.startShift (x.value s)).endShift (x.value s) rx with env := e }.countStep) := by
  simp [State.busStep, h, State.perform, transfer_running s ha]

/-- A completed run of at least one transfer, taken apart at the first. -/
theorem answers_cons {l : Lines} {tx rx : Byte} {txs rxs : List Byte} {n : Nat} {e e' : Env}
    (h : e.answers l (tx :: txs) n = some (rx :: rxs, e')) :
    ∃ e1, e.answer l tx n = ⟨some rx, e1⟩ ∧ e1.answers l txs (n + 1) = some (rxs, e') := by
  rw [Env.answers] at h
  split at h
  · simp at h
  · next rx' e1 ha =>
    split at h
    · simp at h
    · next rxs' e2 hb =>
      simp only [Option.some.injEq, Prod.mk.injEq, List.cons.injEq] at h
      obtain ⟨⟨rfl, rfl⟩, rfl⟩ := h
      exact ⟨e1, ha, hb⟩

theorem answers_nil {l : Lines} {rxs : List Byte} {n : Nat} {e e' : Env} (h : e.answers l [] n = some (rxs, e')) :
    rxs = [] ∧ e' = e := by
  simpa [Env.answers, eq_comm] using h

/-- The state after a completed frame on device `d` that sent `txs` (the last one `last`) and received `rx` last. -/
def State.framed (d : Device) (txs rxs : List Byte) (last rx : Byte) (e : Env) (s : State) : State :=
  { s with
    txbuf := last
    rxbuf := rx
    busy := false
    agN := if d = .ag then .high else s.agN
    mN := if d = .m then .high else s.mN
    trace := s.trace ++ (.cs d .low :: (txs.zip rxs).map (fun p => .xfer p.1 p.2) ++ [.cs d .high])
    seq := s.seq + (txs.length + 2)
    resets := tickBy (txs.length + 2) s.resets
    env := e.onCs (s.lines.drive d .low) d .high
    draws := s.draws + txs.length }

theorem lines_csDrive (d : Device) (v : Level) : (s.csDrive d v).lines = s.lines.drive d v := rfl

@[simp] theorem frameAnswers_accept (i : Instr) (p : Plan) (d : Device) (txs : List Byte) :
    (s.accept i p).frameAnswers d txs = s.frameAnswers d txs := by
  simp [State.frameAnswers]

/-- The write frame of 41_register_protocol.md R160 with all its transfers complete. -/
theorem runSteps_writeFrame (d : Device) (as : List Assign) (rest : List BusStep) (r : Reply) {x y : Byte} {e : Env}
    (hq : s.quietFor 4 = true) (h : s.frameAnswers d [s.td.addrByte, s.td.dataByte] = some ([x, y], e)) :
    s.runSteps r (writeFrame d as ++ rest) =
      ((s.framed d [s.td.addrByte, s.td.dataByte] [x, y] s.td.dataByte y e).assigns as).runSteps r rest := by
  obtain ⟨e1, h1, h'⟩ := answers_cons h
  obtain ⟨e2, h2, h''⟩ := answers_cons h'
  obtain ⟨-, rfl⟩ := answers_nil h''
  let s1 := (s.csDrive d .low).countStep
  let s2 := { (s1.startShift s.td.addrByte).endShift s.td.addrByte x with env := e1 }.countStep
  let s3 := { (s2.startShift s.td.dataByte).endShift s.td.dataByte y with env := e }.countStep
  have q1 : s1.resetNow = false := resetNow_of_quiet s1 (quietFor_of_resets s s1 (n := 3) (m := 1) hq rfl)
  have q2 : s2.resetNow = false := resetNow_of_quiet s2 (quietFor_of_resets s s2 (n := 2) (m := 2) hq (by simp [s2, s1]))
  have q3 : s3.resetNow = false :=
    resetNow_of_quiet s3 (quietFor_of_resets s s3 (n := 1) (m := 3) hq (by simp [s3, s2, s1]))
  simp only [writeFrame, List.cons_append, List.nil_append]
  rw [runSteps_cons_running s s1 (busStep_cs s d .low [] (resetNow_of_quiet s hq)),
    runSteps_cons_running s1 s2 (busStep_xfer s1 (x := .addrByte) q1 h1), runSteps_cons_running s2 s3 (busStep_xfer s2 (x := .dataByte) q2 h2),
    runSteps_cons_running s3 _ (busStep_cs s3 d .high as q3)]
  congr 2
  cases d <;> simp [s3, s2, s1, State.framed, State.countStep, State.tick, State.csDrive, State.endShift,
    State.startShift, State.lines, Lines.drive]

/-- The 1-byte read frame of 41_register_protocol.md R161 with all its transfers complete. -/
theorem runSteps_readFrame_one (d : Device) (r : Reply) {x lo : Byte} {e : Env} (hq : s.quietFor 4 = true)
    (h : s.frameAnswers d [s.td.addrByte, s.td.dataByte] = some ([x, lo], e)) :
    s.runSteps r (readFrame d 1) =
      State.complete r { s.framed d [s.td.addrByte, s.td.dataByte] [x, lo] s.td.dataByte lo e with
        rdxbuf := lowStage lo } := by
  obtain ⟨e1, h1, ha⟩ := answers_cons h
  obtain ⟨e2, h2, hb⟩ := answers_cons ha
  obtain ⟨-, rfl⟩ := answers_nil hb
  let s1 := (s.csDrive d .low).countStep
  let s2 := { (s1.startShift s.td.addrByte).endShift s.td.addrByte x with env := e1 }.countStep
  let s3 := { (s2.startShift s.td.dataByte).endShift s.td.dataByte lo with env := e }.countStep.assign .rdxLow
  have q1 : s1.resetNow = false := resetNow_of_quiet s1 (quietFor_of_resets s s1 (n := 3) (m := 1) hq rfl)
  have q2 : s2.resetNow = false := resetNow_of_quiet s2 (quietFor_of_resets s s2 (n := 2) (m := 2) hq (by simp [s2, s1]))
  have q3 : s3.resetNow = false :=
    resetNow_of_quiet s3 (quietFor_of_resets s s3 (n := 1) (m := 3) hq (by simp [s3, s2, s1]))
  simp only [readFrame, OfNat.one_ne_ofNat, if_false]
  rw [runSteps_cons_running s s1 (busStep_cs s d .low [] (resetNow_of_quiet s hq)),
    runSteps_cons_running s1 s2 (busStep_xfer s1 (x := .addrByte) q1 h1),
    runSteps_cons_running s2 s3 (busStep_xfer s2 (x := .dataByte) q2 h2),
    runSteps_cons_running s3 _ (busStep_cs s3 d .high [] q3), State.runSteps]
  congr 1
  cases d <;> simp [s3, s2, s1, State.framed, State.countStep, State.tick, State.csDrive, State.endShift,
    State.startShift, State.assign, State.lines, Lines.drive]

/-- The 2-byte read frame of 41_register_protocol.md R161 with all its transfers complete. -/
theorem runSteps_readFrame_two (d : Device) (r : Reply) {x lo hi : Byte} {e : Env} (hq : s.quietFor 5 = true)
    (h : s.frameAnswers d [s.td.addrByte, s.td.dataByte, dummy] = some ([x, lo, hi], e)) :
    s.runSteps r (readFrame d 2) =
      State.complete r { s.framed d [s.td.addrByte, s.td.dataByte, dummy] [x, lo, hi] dummy hi e with
        rdxbuf := assemble 2 lo hi } := by
  obtain ⟨e1, h1, ha⟩ := answers_cons h
  obtain ⟨e2, h2, hb⟩ := answers_cons ha
  obtain ⟨e3, h3, hc⟩ := answers_cons hb
  obtain ⟨-, rfl⟩ := answers_nil hc
  let s1 := (s.csDrive d .low).countStep
  let s2 := { (s1.startShift s.td.addrByte).endShift s.td.addrByte x with env := e1 }.countStep
  let s3 := { (s2.startShift s.td.dataByte).endShift s.td.dataByte lo with env := e2 }.countStep.assign .rdxLow
  let s4 := { (s3.startShift dummy).endShift dummy hi with env := e }.countStep.assign .rdxHigh
  have q1 : s1.resetNow = false := resetNow_of_quiet s1 (quietFor_of_resets s s1 (n := 4) (m := 1) hq rfl)
  have q2 : s2.resetNow = false := resetNow_of_quiet s2 (quietFor_of_resets s s2 (n := 3) (m := 2) hq (by simp [s2, s1]))
  have q3 : s3.resetNow = false :=
    resetNow_of_quiet s3 (quietFor_of_resets s s3 (n := 2) (m := 3) hq (by simp [s3, s2, s1]))
  have q4 : s4.resetNow = false :=
    resetNow_of_quiet s4 (quietFor_of_resets s s4 (n := 1) (m := 4) hq (by simp [s4, s3, s2, s1]))
  simp only [readFrame, if_true]
  rw [runSteps_cons_running s s1 (busStep_cs s d .low [] (resetNow_of_quiet s hq)),
    runSteps_cons_running s1 s2 (busStep_xfer s1 (x := .addrByte) q1 h1),
    runSteps_cons_running s2 s3 (busStep_xfer s2 (x := .dataByte) q2 h2),
    runSteps_cons_running s3 s4 (busStep_xfer s3 (x := .given dummy) q3 h3),
    runSteps_cons_running s4 _ (busStep_cs s4 d .high [] q4), State.runSteps]
  congr 1
  cases d <;> simp [s4, s3, s2, s1, State.framed, State.countStep, State.tick, State.csDrive, State.endShift,
    State.startShift, State.assign, State.lines, Lines.drive]

/-- A command that the block accepts is its acceptance followed by the run of its plan. -/
theorem exec_of_accepts {i : Instr} (h : s.Accepts i) :
    exec i s = .next ((s.accept i (planOf i)).runSteps (planOf i).reply (planOf i).steps) := by
  obtain ⟨hc, hw, hi⟩ := h
  cases i <;>
    simp_all [exec, planOf, execInit, execSel, execDesel, execXfer, execWrreg, execRdreg, execRdax, execRday, execRdaz,
      execRdgx, execRdgy, execRdgz, execRdmx, execRdmy, execRdmz, execRdtemp, execRdid, State.runConfigured,
      State.runAlways]

/-- A command presented to a block that is not idle is turned away (10_state.md R25). -/
theorem exec_of_busy {i : Instr} (hw : i.WellFormed) (h : s.cmd ≠ none) : exec i s = .next s := by
  cases i <;>
    simp_all [exec, execInit, execSel, execDesel, execXfer, execWrreg, execRdreg, execRdax, execRday, execRdaz,
      execRdgx, execRdgy, execRdgz, execRdmx, execRdmy, execRdmz, execRdtemp, execRdid, State.runConfigured,
      State.runAlways]

/-- A command other than INIT is refused while the shift engine is not configured (70_reset_and_hazards.md R255). -/
theorem exec_of_unconfigured {i : Instr} (hw : i.WellFormed) (hi : i ≠ .init) (hc : s.cmd = none)
    (h : s.configured = false) : exec i s = .refused .notInitialised := by
  cases i <;>
    simp_all [exec, execSel, execDesel, execXfer, execWrreg, execRdreg, execRdax, execRday, execRdaz,
      execRdgx, execRdgy, execRdgz, execRdmx, execRdmy, execRdmz, execRdtemp, execRdid, State.runConfigured]

/-- Everything `exec` can do. -/
theorem exec_cases (i : Instr) :
    (¬ i.WellFormed ∧ exec i s = .refused .illFormedByteCount) ∨
    (i.WellFormed ∧ s.cmd ≠ none ∧ exec i s = .next s) ∨
    (i.WellFormed ∧ i ≠ .init ∧ s.cmd = none ∧ s.configured = false ∧ exec i s = .refused .notInitialised) ∨
    (s.Accepts i ∧ exec i s = .next ((s.accept i (planOf i)).runSteps (planOf i).reply (planOf i).steps)) := by
  by_cases hw : i.WellFormed
  · right
    by_cases hc : s.cmd = none
    · right
      by_cases ha : i = .init ∨ s.configured = true
      · exact .inr ⟨⟨hc, hw, ha⟩, exec_of_accepts s ⟨hc, hw, ha⟩⟩
      · obtain ⟨hi, hf⟩ := not_or.1 ha
        have hf' : s.configured = false := by simpa using hf
        exact .inl ⟨hw, hi, hc, hf', exec_of_unconfigured s hw hi hc hf'⟩
    · exact .inl ⟨hw, hc, exec_of_busy s hw hc⟩
  · left
    refine ⟨hw, ?_⟩
    cases i <;> simp_all [exec, execRdreg, Instr.WellFormed]

end Sys2Proof.Machine
end

