-- ==== Sys2Proof/Laws/Run.lean ====
section
/-! SUPPORT. Everything a bus step and a run of bus steps can do, for proofs over all commands: what a completed bus step
leaves and changes, the two ends of a run without a reset, and the length of each command's plan. -/

namespace Sys2Proof.Machine

variable (s t u : State)

/-- The number of transfers in one action. -/
def BusOp.transfers : BusOp → Nat
  | .cfgw => 0
  | .cs _ _ => 0
  | .xfer _ => 1

/-- The number of transfers in some bus steps. -/
def transfersIn : List BusStep → Nat
  | [] => 0
  | b :: bs => b.op.transfers + transfersIn bs

/-- The event of an action, without the byte received. -/
def BusOp.shape (s : State) : BusOp → Event
  | .cfgw => .cfgw true true Config.bitclkDiv true
  | .cs d v => .cs d v
  | .xfer x => .xfer (x.value s) 0

/-- What a completed bus step leaves and what it changes. -/
structure Advanced (op : BusOp) (s t : State) : Prop where
  cmd : t.cmd = s.cmd
  seq : t.seq = s.seq + 1
  res : t.res = s.res
  ill : t.ill = s.ill
  strobe : t.strobe = s.strobe
  hasValue : t.hasValue = s.hasValue
  host : t.host = s.host
  hostFault : t.hostFault = s.hostFault
  resets : t.resets = tickBy 1 s.resets
  draws : t.draws = s.draws + op.transfers
  event : ∃ e, t.trace = s.trace ++ [e] ∧ e.shape = op.shape s ∧ t.lines = s.lines.after [e]
  busy : s.busy = false → t.busy = false
  completes : ∀ k, s.env.completes (op.transfers + k) s.draws = t.env.completes k t.draws
  memWf : s.env.memWf = true → t.env.memWf = true

theorem assigns_lines (as : List Assign) : (s.assigns as).lines = s.lines := by simp [State.lines]

theorem advanced_of_busStep {b : BusStep} (h : s.busStep b = .running t) : Advanced b.op s t := by
  rcases busStep_cases s b with ⟨-, hb⟩ | ⟨-, ho, hb⟩ | ⟨d, v, -, ho, hb⟩ | ⟨x, rx, e, -, ho, ha, hb⟩ | ⟨x, e, -, -, -, hb⟩ <;>
    rw [h] at hb <;> cases hb
  · rw [ho]
    constructor <;> try simp [State.countStep, BusOp.transfers]
    exact ⟨rfl, by rw [assigns_lines]; rfl⟩
  · rw [ho]
    constructor <;> try simp [State.countStep, BusOp.transfers]
    exact ⟨rfl, by simp [State.lines, Lines.after, Lines.drive]⟩
  · rw [ho]
    have hc : ∀ k, s.env.completes (1 + k) s.draws = e.completes k (s.draws + 1) := by
      intro k
      rw [Nat.add_comm 1 k, completes_succ s.lines (x.value s), ha]
      simp
    have hw : s.env.memWf = true → e.memWf = true := by
      intro hm
      have := memWf_answer s.lines (x.value s) s.draws s.env hm
      rwa [ha] at this
    constructor <;> try simp [State.countStep, BusOp.transfers, State.endShift, State.startShift]
    · exact ⟨rfl, by rw [assigns_lines]; rfl⟩
    · exact hc
    · exact hw

/-- A bus step that stops without a reset is a transfer that never completes. -/
theorem busStep_hangs {b : BusStep} (h : s.busStep b = .stopped t) (hq : s.resetNow = false) :
    ∃ x e, b.op = .xfer x ∧ s.env.answer s.lines (x.value s) s.draws = ⟨none, e⟩ ∧
      t = { s.startShift (x.value s) with env := e } := by
  rcases busStep_cases s b with ⟨hr, hb⟩ | ⟨-, ho, hb⟩ | ⟨d, v, -, ho, hb⟩ | ⟨x, rx, e, -, ho, ha, hb⟩ | ⟨x, e, -, ho, ha, hb⟩ <;>
    rw [h] at hb <;> cases hb
  · rw [hq] at hr; cases hr
  · exact ⟨x, e, ho, ha, rfl⟩

/-- What a run of completed bus steps leaves and what it changes. -/
structure RanOn (bs : List BusStep) (s t : State) : Prop where
  cmd : t.cmd = s.cmd
  seq : t.seq = s.seq + bs.length
  res : t.res = s.res
  ill : t.ill = s.ill
  strobe : t.strobe = s.strobe
  hasValue : t.hasValue = s.hasValue
  host : t.host = s.host
  hostFault : t.hostFault = s.hostFault
  resets : t.resets = tickBy bs.length s.resets
  draws : t.draws = s.draws + transfersIn bs
  events : ∃ es, t.trace = s.trace ++ es ∧ es.length = bs.length ∧ t.lines = s.lines.after es
  busy : s.busy = false → t.busy = false
  completes : ∀ k, s.env.completes (transfersIn bs + k) s.draws = t.env.completes k t.draws
  memWf : s.env.memWf = true → t.env.memWf = true

theorem Lines.after_append (l : Lines) (es fs : List Event) : l.after (es ++ fs) = (l.after es).after fs := by
  induction es generalizing l with
  | nil => rfl
  | cons e es ih => cases e <;> exact ih _

theorem ranOn_nil : RanOn [] s s := by
  constructor <;> simp [transfersIn, Lines.after]

theorem ranOn_cons {b : BusStep} {bs : List BusStep} (h : Advanced b.op s t) (h' : RanOn bs t u) :
    RanOn (b :: bs) s u := by
  obtain ⟨e, he1, -, he3⟩ := h.event
  obtain ⟨es, h1, h2, h3⟩ := h'.events
  constructor
  · rw [h'.cmd, h.cmd]
  · rw [h'.seq, h.seq, List.length_cons]; omega
  · rw [h'.res, h.res]
  · rw [h'.ill, h.ill]
  · rw [h'.strobe, h.strobe]
  · rw [h'.hasValue, h.hasValue]
  · rw [h'.host, h.host]
  · rw [h'.hostFault, h.hostFault]
  · rw [h'.resets, h.resets, tickBy_tickBy, List.length_cons, Nat.add_comm]
  · rw [h'.draws, h.draws, transfersIn]; omega
  · refine ⟨e :: es, ?_, ?_, ?_⟩
    · rw [h1, he1]; simp
    · simp [h2]
    · rw [h3, he3, ← Lines.after_append]; rfl
  · exact fun hb => h'.busy (h.busy hb)
  · intro k; rw [transfersIn, Nat.add_assoc, h.completes, h'.completes]
  · exact fun hm => h'.memWf (h.memWf hm)

/-- A run of bus steps that all complete. -/
theorem ranOn_of_firstSteps {bs : List BusStep} (h : s.firstSteps bs = .running t) : RanOn bs s t := by
  induction bs generalizing s with
  | nil => cases h; exact ranOn_nil _
  | cons b bs ih =>
    rw [State.firstSteps] at h
    split at h
    · next u hb => exact ranOn_cons s u t (advanced_of_busStep s u hb) (ih u h)
    · cases h

/-- Every prefix of the events of a run is what a prefix of its bus steps appended. -/
theorem events_of_firstSteps {bs : List BusStep} (h : s.firstSteps bs = .running t) :
    ∃ es, t.trace = s.trace ++ es ∧ t.lines = s.lines.after es ∧
      ∀ p, p <+: es → ∃ pre u, pre <+: bs ∧ s.firstSteps pre = .running u ∧ u.lines = s.lines.after p := by
  induction bs generalizing s with
  | nil =>
    cases h
    exact ⟨[], by simp, rfl, fun p hp => ⟨[], _, List.prefix_refl _, rfl, by rw [List.prefix_nil.1 hp]; rfl⟩⟩
  | cons b bs ih =>
    rw [State.firstSteps] at h
    split at h
    · next u hu =>
      obtain ⟨e, e1, -, e3⟩ := (advanced_of_busStep s u hu).event
      obtain ⟨es, i1, i2, i3⟩ := ih u h
      refine ⟨e :: es, by rw [i1, e1]; simp, by rw [i2, e3, ← Lines.after_append]; rfl, fun p hp => ?_⟩
      cases p with
      | nil => exact ⟨[], s, List.nil_prefix, rfl, rfl⟩
      | cons e' p =>
        rw [List.cons_prefix_cons] at hp
        obtain ⟨rfl, hp⟩ := hp
        obtain ⟨pre, v, j1, j2, j3⟩ := i3 p hp
        exact ⟨b :: pre, v, by rw [List.cons_prefix_cons]; exact ⟨rfl, j1⟩, by rw [State.firstSteps, hu]; exact j2,
          by rw [j3, e3, ← Lines.after_append]; rfl⟩
    · cases h

theorem firstSteps_append (bs cs : List BusStep) : s.firstSteps (bs ++ cs) =
    match s.firstSteps bs with
    | .running t => t.firstSteps cs
    | .stopped t => .stopped t := by
  induction bs generalizing s with
  | nil => rfl
  | cons b bs ih =>
    rw [List.cons_append, State.firstSteps, State.firstSteps]
    cases hb : s.busStep b with
    | running t => exact ih t
    | stopped t => rfl

/-- A command is its bus steps and then its completion. -/
theorem runSteps_eq (r : Reply) (bs : List BusStep) : s.runSteps r bs =
    match s.firstSteps bs with
    | .running t => t.complete r
    | .stopped t => t := by
  induction bs generalizing s with
  | nil => rfl
  | cons b bs ih =>
    rw [State.runSteps, State.firstSteps]
    cases hb : s.busStep b with
    | running t => exact ih t
    | stopped t => rfl

/-- A command taken up after some of its bus steps. -/
theorem runSteps_append (r : Reply) {bs : List BusStep} (cs : List BusStep) (h : s.firstSteps bs = .running t) :
    s.runSteps r (bs ++ cs) = t.runSteps r cs := by
  rw [runSteps_eq, runSteps_eq, firstSteps_append, h]

/-- The two ends of a run without a reset: all its bus steps complete, or one of its transfers never does. -/
theorem firstSteps_cases {bs : List BusStep} (hq : s.quietFor bs.length = true) :
    (∃ t, s.firstSteps bs = .running t) ∨
    (∃ pre b post t x e, bs = pre ++ b :: post ∧ s.firstSteps pre = .running t ∧ b.op = .xfer x ∧
      t.env.answer t.lines (x.value t) t.draws = ⟨none, e⟩ ∧
      s.firstSteps bs = .stopped { t.startShift (x.value t) with env := e }) := by
  induction bs generalizing s with
  | nil => exact .inl ⟨s, rfl⟩
  | cons b bs ih =>
    have hr : s.resetNow = false := resetNow_of_quiet s hq
    cases hb : s.busStep b with
    | stopped t =>
      obtain ⟨x, e, ho, ha, rfl⟩ := busStep_hangs s t hb hr
      exact .inr ⟨[], b, bs, s, x, e, rfl, rfl, ho, ha, by rw [State.firstSteps, hb]⟩
    | running t =>
      have hq' : t.quietFor bs.length = true :=
        quietFor_of_resets s t (n := bs.length) (m := 1) hq (advanced_of_busStep s t hb).resets
      rcases ih t hq' with ⟨u, hu⟩ | ⟨pre, b', post, u, x, e, hbs, hpre, ho, ha, hst⟩
      · exact .inl ⟨u, by rw [State.firstSteps, hb]; exact hu⟩
      · exact .inr ⟨b :: pre, b', post, u, x, e, by rw [hbs]; rfl, by rw [State.firstSteps, hb]; exact hpre, ho, ha,
          by rw [State.firstSteps, hb]; exact hst⟩

theorem transfersIn_append (bs cs : List BusStep) : transfersIn (bs ++ cs) = transfersIn bs + transfersIn cs := by
  induction bs with
  | nil => simp [transfersIn]
  | cons b bs ih => simp [transfersIn, ih, Nat.add_assoc]

theorem completes_mono {e : Env} {n j k : Nat} (h : e.completes k n = true) (hj : j ≤ k) : e.completes j n = true := by
  cases e with
  | refDev r => simp
  | unconstrained as =>
    induction j generalizing k n as with
    | zero => simp
    | succ j ih =>
      obtain ⟨k, rfl⟩ : ∃ m, k = m + 1 := ⟨k - 1, by omega⟩
      cases as <;> simp only [Env.completes, Bool.and_eq_true] at h ⊢ <;> exact ⟨h.1, ih (by omega) _ h.2⟩

theorem not_completes_of_answer {e e' : Env} {l : Lines} {tx : Byte} {n k : Nat}
    (h : e.answer l tx n = ⟨none, e'⟩) : e.completes (k + 1) n = false := by
  rw [completes_succ l tx, h]; rfl

/-- Where its transfers complete and no reset comes, a run of bus steps comes to its end. -/
theorem firstSteps_of_completes {bs : List BusStep} (hq : s.quietFor bs.length = true)
    (hc : s.env.completes (transfersIn bs) s.draws = true) : ∃ t, s.firstSteps bs = .running t := by
  rcases firstSteps_cases s hq with h | ⟨pre, b, post, t, x, e, hbs, hpre, ho, ha, -⟩
  · exact h
  · have hR := ranOn_of_firstSteps s t hpre
    rw [hbs, transfersIn_append, transfersIn, ho, hR.completes, BusOp.transfers, Nat.add_comm 1,
      not_completes_of_answer ha] at hc
    cases hc

/-- A run of bus steps that comes to its end had all its transfers complete. -/
theorem completes_of_firstSteps {bs : List BusStep} (h : s.firstSteps bs = .running t) :
    s.env.completes (transfersIn bs) s.draws = true := by
  have := (ranOn_of_firstSteps s t h).completes 0
  simpa using this

/-- 70_reset_and_hazards.md R265: the bus steps of a command. -/
theorem planOf_length {i : Instr} (h : i.WellFormed) : (planOf i).steps.length = i.busSteps := by
  cases i with
  | rdreg d a bc => rcases h with rfl | rfl <;> rfl
  | _ => rfl

/-- 70_reset_and_hazards.md R265: the transfers of a command. -/
theorem planOf_transfers {i : Instr} (h : i.WellFormed) : transfersIn (planOf i).steps = i.transfers := by
  cases i with
  | rdreg d a bc => rcases h with rfl | rfl <;> rfl
  | _ => rfl

theorem busSteps_le {i : Instr} (h : i.WellFormed) : i.busSteps ≤ 25 := by
  cases i with
  | rdreg d a bc => rcases h with rfl | rfl <;> simp [Instr.busSteps]
  | _ => simp [Instr.busSteps]

end Sys2Proof.Machine
end

