-- ==== Sys2Proof/Laws/Frames.lean ====
section
/-! SUPPORT. The chip-select framing of the commands that select their own device (30_encoding.md R104): each plan is a
sequence of whole frames, and what that says of the lines along a run. -/

namespace Sys2Proof.Machine

variable (s t : State)

/-- The device of the descriptor after some assignments, `d` before them. -/
def devAfter (d : Device) : List Assign → Device
  | [] => d
  | .loadTd d' _ _ _ _ :: as => devAfter d' as
  | .rdxLow :: as => devAfter d as
  | .rdxHigh :: as => devAfter d as
  | .setInitd :: as => devAfter d as

/-- Bus steps that are whole frames on the device of the descriptor, `d` at their start; `o` says whether a frame is open
there. -/
def framed (d : Device) (o : Bool) : List BusStep → Bool
  | [] => !o
  | ⟨.cfgw, as⟩ :: bs => !o && framed (devAfter d as) false bs
  | ⟨.cs d' .low, as⟩ :: bs => !o && decide (d' = d) && decide (devAfter d as = d) && framed d true bs
  | ⟨.cs d' .high, as⟩ :: bs => o && decide (d' = d) && framed (devAfter d as) false bs
  | ⟨.xfer _, as⟩ :: bs => o && decide (devAfter d as = d) && framed d true bs

/-- The lines inside and outside a frame on `d`, the other line high. -/
def frameLines (d : Device) (o : Bool) : Lines := if o then Lines.bothHigh.drive d .low else Lines.bothHigh

theorem frameLines_exclusive (d : Device) (o : Bool) : (frameLines d o).Exclusive := by
  cases d <;> cases o <;> simp [frameLines, Lines.Exclusive, Lines.bothHigh, Lines.drive]

theorem frameLines_false (d : Device) : frameLines d false = Lines.bothHigh := rfl

theorem assigns_dev (as : List Assign) : (s.assigns as).td.dev = devAfter s.td.dev as := by
  induction as generalizing s with
  | nil => rfl
  | cons a as ih => cases a <;> exact ih _

/-- One bus step of whole frames: the rest is whole frames, in a frame or not as the line of the device says. -/
theorem framed_step {b : BusStep} {bs : List BusStep} {o : Bool} (h : framed s.td.dev o (b :: bs) = true)
    (hb : s.busStep b = .running t) :
    ∃ o', framed t.td.dev o' bs = true ∧ ((∃ x, b.op = .xfer x) → o = true) ∧
      (s.lines = frameLines s.td.dev o → t.lines = frameLines t.td.dev o') ∧
      ((o = true → s.line s.td.dev = .low) → o' = true → t.line t.td.dev = .low) := by
  obtain ⟨op, as⟩ := b
  rcases busStep_cases s ⟨op, as⟩ with ⟨-, h'⟩ | ⟨-, ho, h'⟩ | ⟨d, v, -, ho, h'⟩ | ⟨x, rx, e, -, ho, -, h'⟩ | ⟨x, e, -, -, -, h'⟩ <;>
    rw [hb] at h' <;> cases h' <;> (simp only at ho; subst ho)
  · simp only [framed, Bool.and_eq_true, Bool.not_eq_true'] at h
    obtain ⟨rfl, h⟩ := h
    refine ⟨false, by rw [assigns_dev]; exact h, by simp, fun hl => ?_, by simp⟩
    rw [assigns_lines, frameLines_false, ← frameLines_false s.td.dev, ← hl]; rfl
  · cases v with
    | low =>
      simp only [framed, Bool.and_eq_true, Bool.not_eq_true', decide_eq_true_eq] at h
      obtain ⟨⟨⟨rfl, rfl⟩, hd⟩, h⟩ := h
      have hd' : ((s.csDrive s.td.dev .low).countStep.assigns as).td.dev = s.td.dev := by rw [assigns_dev]; exact hd
      refine ⟨true, by rw [hd']; exact h, by simp, fun hl => ?_, fun _ _ => ?_⟩
      · rw [hd', assigns_lines]
        show (s.csDrive s.td.dev .low).lines = _
        rw [lines_csDrive, hl]; rfl
      · rw [hd']
        cases hdv : s.td.dev <;> simp [State.line, State.countStep]
    | high =>
      simp only [framed, Bool.and_eq_true, decide_eq_true_eq] at h
      obtain ⟨⟨rfl, rfl⟩, h⟩ := h
      refine ⟨false, by rw [assigns_dev]; exact h, by simp, fun hl => ?_, by simp⟩
      rw [assigns_lines]
      show (s.csDrive s.td.dev .high).lines = _
      rw [lines_csDrive, hl]
      cases s.td.dev <;> rfl
  · simp only [framed, Bool.and_eq_true, decide_eq_true_eq] at h
    obtain ⟨⟨rfl, hd⟩, h⟩ := h
    have hd' : (State.assigns as
        { (s.startShift (x.value s)).endShift (x.value s) rx with env := e }.countStep).td.dev = s.td.dev := by
      rw [assigns_dev]; exact hd
    refine ⟨true, by rw [hd']; exact h, by simp, fun hl => ?_, fun hl _ => ?_⟩
    · rw [hd', assigns_lines]; exact hl
    · rw [hd']
      have := hl rfl
      cases hdv : s.td.dev <;> simp_all [State.line, State.countStep, State.endShift, State.startShift]

/-- A run of whole frames up to a point: what is left is whole frames, and the lines are as the frame says. -/
theorem framed_run {pre rest : List BusStep} {o : Bool} (h : framed s.td.dev o (pre ++ rest) = true)
    (hf : s.firstSteps pre = .running t) :
    ∃ o', framed t.td.dev o' rest = true ∧
      (s.lines = frameLines s.td.dev o → t.lines = frameLines t.td.dev o') ∧
      ((o = true → s.line s.td.dev = .low) → o' = true → t.line t.td.dev = .low) := by
  induction pre generalizing s o with
  | nil => cases hf; exact ⟨o, h, id, id⟩
  | cons b bs ih =>
    rw [State.firstSteps] at hf
    split at hf
    · next u hb =>
      obtain ⟨o1, h1, -, h3, h4⟩ := framed_step s u h hb
      obtain ⟨o2, k1, k3, k4⟩ := ih u h1 hf
      exact ⟨o2, k1, fun hl => k3 (h3 hl), fun hl => k4 (h4 hl)⟩
    · cases hf

/-- Every command that selects its own device is a sequence of whole frames. -/
theorem planOf_framed {i : Instr} (hw : i.WellFormed) (hi : i.composite = true) :
    framed (s.accept i (planOf i)).td.dev false (planOf i).steps = true := by
  have hd : (s.accept i (planOf i)).td.dev = devAfter s.td.dev (planOf i).onAccept := by
    unfold State.accept; rw [assigns_dev]
  rw [hd]
  cases i with
  | rdreg d a bc => rcases hw with rfl | rfl <;> cases d <;> rfl
  | wrreg d a v => cases d <;> rfl
  | rdid d => cases d <;> rfl
  | sel d => cases hi
  | desel d => cases hi
  | xfer b => cases hi
  | _ => rfl

end Sys2Proof.Machine
end

