-- ==== Sys2Proof/Laws/PerInstr.lean ====
section
/-! SUPPORT. Facts about every command as syntax, one lemma per constructor. Family EncodedRow: the word of a well-formed
command matches the command's own row of spec/opcode_table.json. -/

namespace Sys2Proof.Laws.EncodedRow

/-- The row of spec/opcode_table.json a command stands for. -/
def rowOf : Instr → OpcodeRow
  | .init => ⟨"INIT", 0x10000000, 0xFFFFFFFF⟩
  | .sel _ => ⟨"SEL", 0x20000000, 0xFFFEFFFF⟩
  | .desel _ => ⟨"DESEL", 0x30000000, 0xFFFEFFFF⟩
  | .xfer _ => ⟨"XFER", 0x40000000, 0xFFFFFF00⟩
  | .wrreg _ _ _ => ⟨"WRREG", 0x50000000, 0xFFFE8000⟩
  | .rdreg _ _ _ => ⟨"RDREG", 0x50008000, 0xFFFC80FF⟩
  | .rdax => ⟨"RDAX", 0x60000000, 0xFFFFFFFF⟩
  | .rday => ⟨"RDAY", 0x60000001, 0xFFFFFFFF⟩
  | .rdaz => ⟨"RDAZ", 0x60000002, 0xFFFFFFFF⟩
  | .rdgx => ⟨"RDGX", 0x60000003, 0xFFFFFFFF⟩
  | .rdgy => ⟨"RDGY", 0x60000004, 0xFFFFFFFF⟩
  | .rdgz => ⟨"RDGZ", 0x60000005, 0xFFFFFFFF⟩
  | .rdmx => ⟨"RDMX", 0x60000006, 0xFFFFFFFF⟩
  | .rdmy => ⟨"RDMY", 0x60000007, 0xFFFFFFFF⟩
  | .rdmz => ⟨"RDMZ", 0x60000008, 0xFFFFFFFF⟩
  | .rdtemp => ⟨"RDTEMP", 0x60000009, 0xFFFFFFFF⟩
  | .rdid _ => ⟨"RDID", 0x6000000A, 0xFFFEFFFF⟩

/-- The command's row is in the table, has its mnemonic, and the command's word matches it. -/
def Statement (i : Instr) : Prop :=
  i.WellFormed → rowOf i ∈ opcodeTable ∧ (rowOf i).mnemonic = i.mnemonic ∧ (rowOf i).Matches (encode i)

theorem rowOf_mem (i : Instr) : rowOf i ∈ opcodeTable ∧ (rowOf i).mnemonic = i.mnemonic := by
  cases i <;> exact ⟨by simp [rowOf, opcodeTable, operandRows, fixedRows], rfl⟩

/-- No word matches two rows: any two rows differ in a bit that both masks cover (30_encoding.md R116). -/
theorem rows_disjoint : ∀ r ∈ opcodeTable, ∀ q ∈ opcodeTable, r.value &&& q.mask = q.value &&& r.mask → q = r := by
  simp only [opcodeTable, operandRows, fixedRows, List.cons_append, List.nil_append]
  decide +revert

theorem of_matches {i : Instr} (h : (rowOf i).Matches (encode i)) : Statement i :=
  fun _ => ⟨(rowOf_mem i).1, (rowOf_mem i).2, h⟩

theorem init : Statement .init := of_matches (by decide)
theorem sel (d : Device) : Statement (.sel d) := of_matches (by cases d <;> decide)
theorem desel (d : Device) : Statement (.desel d) := of_matches (by cases d <;> decide)

theorem xfer (b : Byte) : Statement (.xfer b) := by
  apply of_matches
  obtain ⟨h1, h2, h3, h4, h5, h6, h7⟩ := slices_wordOf (op := 4) (bcm1 := 0) (dev := 0) (rw := 0) (addr := 0)
    (low := b.toNat) (by omega) (by omega) (by omega) (by omega) (by omega) b.isLt
  rw [matches_iff]
  simp only [encode, h1, h2, h3, h4, h5, h6, h7, rowOf]
  simp [slice]

theorem wrreg (d : Device) (a : Addr) (v : Byte) : Statement (.wrreg d a v) := by
  apply of_matches
  obtain ⟨h1, h2, h3, h4, h5, h6, h7⟩ := slices_wordOf (op := 5) (bcm1 := 0) (dev := d.code) (rw := 0)
    (addr := a.toNat) (low := v.toNat) (by omega) (by omega) (Device.code_lt_two d) (by omega) a.isLt v.isLt
  rw [matches_iff]
  simp only [encode, h1, h2, h3, h4, h5, h6, h7, rowOf]
  simp [slice]

theorem rdreg (d : Device) (a : Addr) (bc : Nat) : Statement (.rdreg d a bc) := by
  intro hw
  refine of_matches ?_ hw
  have hb : bc = 1 ∨ bc = 2 := hw
  obtain ⟨h1, h2, h3, h4, h5, h6, h7⟩ := slices_wordOf (op := 5) (bcm1 := bc - 1) (dev := d.code) (rw := 1)
    (addr := a.toNat) (low := 0) (by omega) (by omega) (Device.code_lt_two d) (by omega) a.isLt (by omega)
  rw [matches_iff]
  simp only [encode, h1, h2, h3, h4, h5, h6, h7, rowOf]
  simp [slice]

theorem rdax : Statement .rdax := of_matches (by decide)
theorem rday : Statement .rday := of_matches (by decide)
theorem rdaz : Statement .rdaz := of_matches (by decide)
theorem rdgx : Statement .rdgx := of_matches (by decide)
theorem rdgy : Statement .rdgy := of_matches (by decide)
theorem rdgz : Statement .rdgz := of_matches (by decide)
theorem rdmx : Statement .rdmx := of_matches (by decide)
theorem rdmy : Statement .rdmy := of_matches (by decide)
theorem rdmz : Statement .rdmz := of_matches (by decide)
theorem rdtemp : Statement .rdtemp := of_matches (by decide)
theorem rdid (d : Device) : Statement (.rdid d) := of_matches (by cases d <;> decide)

end Sys2Proof.Laws.EncodedRow
end

