-- ==== Sys2Proof/Laws/RefDev.lean ====
section
/-! SUPPORT. What the reference device (20_memory.md R76 to R82) answers to a whole frame on one sub-device with the other
line high, and what the frame leaves in it. -/

namespace Sys2Proof.Machine

variable (s : State) (r : RefDev) (d : Device) (a : Addr)

@[simp] theorem sub_withSub (x : RefDevice) : (r.withSub d x).sub d = x := by cases d <;> rfl

theorem sub_withSub_other {d' : Device} (x : RefDevice) (h : d' ≠ d) : (r.withSub d x).sub d' = r.sub d' := by
  cases d <;> cases d' <;> first | rfl | exact absurd rfl h

@[simp] theorem outside_withSub (x : RefDevice) : (r.withSub d x).outside = r.outside := by cases d <;> rfl

@[simp] theorem withSub_withSub (x y : RefDevice) : (r.withSub d x).withSub d y = r.withSub d y := by cases d <;> rfl

@[simp] theorem onCs_refDev_eq (l : Lines) (v : Level) :
    (Env.refDev r).onCs l d v = .refDev (r.withSub d ((r.sub d).onCs (l.of d) v)) := rfl

@[simp] theorem of_bothHigh : Lines.bothHigh.of d = .high := by cases d <;> rfl

@[simp] theorem of_drive (l : Lines) (v : Level) : (l.drive d v).of d = v := by cases d <;> rfl

/-- The fall of a line starts a frame (R77, 70_reset_and_hazards.md R258). -/
@[simp] theorem onCs_fall (x : RefDevice) : x.onCs .high .low = { x with phase := .addr, wrote := false } := by
  simp [RefDevice.onCs]

/-- The rise of a line, or a line driven high that is high, ends a frame (R77). -/
@[simp] theorem onCs_high (was : Level) (x : RefDevice) :
    x.onCs was .high = { x with phase := .idle, wrote := false } := rfl

/-- A transfer with only the line of `d` low goes to `d`. -/
theorem answer_selected (tx : Byte) (n : Nat) (ho : r.outside = false) :
    r.answer (Lines.bothHigh.drive d .low) tx n =
      ⟨some ((r.sub d).answer tx (Config.freeByte n)).rx,
        .refDev { r.withSub d ((r.sub d).answer tx (Config.freeByte n)).device with
          outside := ((r.sub d).answer tx (Config.freeByte n)).outside }⟩ := by
  cases d <;> simp [RefDev.answer, RefDev.answerFrom, ho, Lines.bothHigh, Lines.drive]

theorem outside_eta (h : r.outside = false) : { r with outside := false } = r := by
  cases r; simp_all

/-- R78: an address byte. -/
theorem answer_addr (tx : Byte) (n : Nat) (x : RefDevice) (ho : r.outside = false) (hx : r.sub d = x)
    (hp : x.phase = .addr) :
    (Env.refDev r).answer (Lines.bothHigh.drive d .low) tx n =
      ⟨some (Config.freeByte n), .refDev (r.withSub d (x.takeAddr tx))⟩ := by
  subst hx
  rw [Env.answer, answer_selected r d tx n ho]
  simp only [RefDevice.answer, hp]
  rw [outside_eta _ (by simp [ho])]

/-- R79: a data byte of a read. -/
theorem answer_read (tx : Byte) (n : Nat) (x : RefDevice) (ho : r.outside = false) (hx : r.sub d = x)
    (hp : x.phase = .data) (hr : x.rw = true) :
    (Env.refDev r).answer (Lines.bothHigh.drive d .low) tx n =
      ⟨some (x.reg.read x.ptr), .refDev (r.withSub d x.advance)⟩ := by
  subst hx
  rw [Env.answer, answer_selected r d tx n ho]
  simp only [RefDevice.answer, hp, hr, if_true]
  rw [outside_eta _ (by simp [ho])]

/-- R79: the data byte of a write. -/
theorem answer_write (tx : Byte) (n : Nat) (x : RefDevice) (ho : r.outside = false) (hx : r.sub d = x)
    (hp : x.phase = .data) (hr : x.rw = false) (hw : x.wrote = false) :
    (Env.refDev r).answer (Lines.bothHigh.drive d .low) tx n =
      ⟨some (Config.freeByte n), .refDev (r.withSub d (x.takeData tx))⟩ := by
  subst hx
  rw [Env.answer, answer_selected r d tx n ho]
  simp only [RefDevice.answer, hp, hr, hw, Bool.false_eq_true, if_false]
  rw [outside_eta _ (by simp [ho])]

theorem takeAddr_read (x : RefDevice) :
    x.takeAddr (readByte a) = { x with rw := true, ptr := a, phase := .data, wrote := false } := by
  have h : (readByte a).msb = true ∧ (readByte a).setWidth 7 = a := by revert a; decide
  simp [RefDevice.takeAddr, h.1, h.2]

theorem takeAddr_write (x : RefDevice) :
    x.takeAddr (writeByte a) = { x with rw := false, ptr := a, phase := .data, wrote := false } := by
  have h : (writeByte a).msb = false ∧ (writeByte a).setWidth 7 = a := by revert a; decide
  simp [RefDevice.takeAddr, h.1, h.2]

/-- A sub-device before the line rises after a read frame of `k` data bytes at `a`. -/
def RefDevice.afterRead (k : Nat) (a : Addr) (x : RefDevice) : RefDevice :=
  { x with rw := true, ptr := if x.ainc then a + BitVec.ofNat 7 k else a, phase := .data, wrote := false }

/-- A sub-device before the line rises after a write frame at `a`. -/
def RefDevice.afterWrite (a : Addr) (v : Byte) (x : RefDevice) : RefDevice :=
  { x with
    rw := false, ptr := a, phase := .data, wrote := true,
    reg := if a ∈ x.writable then x.reg.write a v else x.reg }

variable (hl : s.lines = Lines.bothHigh) (he : s.env = .refDev r) (ho : r.outside = false)

include hl he ho

/-- The write frame. -/
theorem refDev_write (v : Byte) : s.frameAnswers d [writeByte a, v] =
    some ([Config.freeByte s.draws, Config.freeByte (s.draws + 1)],
      .refDev (r.withSub d ((r.sub d).afterWrite a v))) := by
  rw [State.frameAnswers, he, hl, onCs_refDev_eq, of_bothHigh, onCs_fall, Env.answers,
    answer_addr _ d _ _ _ (by simp [ho]) (sub_withSub _ _ _) rfl, takeAddr_write]
  simp only [Env.answers]
  rw [answer_write _ d _ _ _ (by simp [ho]) (sub_withSub _ _ _) rfl rfl rfl]
  simp only [withSub_withSub, RefDevice.takeData, RefDevice.afterWrite]

/-- The read frame of one data byte. -/
theorem refDev_readOne : s.frameAnswers d [readByte a, dummy] =
    some ([Config.freeByte s.draws, (r.sub d).reg.read a], .refDev (r.withSub d ((r.sub d).afterRead 1 a))) := by
  rw [State.frameAnswers, he, hl, onCs_refDev_eq, of_bothHigh, onCs_fall, Env.answers,
    answer_addr _ d _ _ _ (by simp [ho]) (sub_withSub _ _ _) rfl, takeAddr_read]
  simp only [Env.answers]
  rw [answer_read _ d _ _ _ (by simp [ho]) (sub_withSub _ _ _) rfl rfl]
  simp only [withSub_withSub, RefDevice.advance, RefDevice.afterRead]
  rfl

/-- The read frame of two data bytes: the second from the next address, or from the same one (R80). -/
theorem refDev_readTwo : s.frameAnswers d [readByte a, dummy, dummy] =
    some ([Config.freeByte s.draws, (r.sub d).reg.read a,
      (r.sub d).reg.read (if (r.sub d).ainc then a + 1 else a)],
      .refDev (r.withSub d ((r.sub d).afterRead 2 a))) := by
  rw [State.frameAnswers, he, hl, onCs_refDev_eq, of_bothHigh, onCs_fall, Env.answers,
    answer_addr _ d _ _ _ (by simp [ho]) (sub_withSub _ _ _) rfl, takeAddr_read]
  simp only [Env.answers]
  rw [answer_read _ d _ _ _ (by simp [ho]) (sub_withSub _ _ _) rfl rfl]
  simp only
  rw [answer_read _ d _ _ _ (by simp [ho]) (sub_withSub _ _ _) rfl rfl]
  have h2 : a + 1 + 1 = a + BitVec.ofNat 7 2 := by revert a; decide
  simp only [withSub_withSub, RefDevice.advance, RefDevice.afterRead]
  rcases Bool.eq_false_or_eq_true (r.sub d).ainc with h | h <;>
    simp only [h, Bool.false_eq_true, if_true, if_false, h2]

end Sys2Proof.Machine
end

