-- ==== Sys2Proof/Tests/Slice0.lean ====
section
/-! SUPPORT. Tests with results taken from the spec (95_test_vectors.md unless said otherwise), and for every statement with
hypotheses a state and operands that meet them all. -/

namespace Sys2Proof.Tests

open Sys2Proof Sys2Proof.Machine

/-- The start state of 95_test_vectors.md: INIT has completed, both lines are high, the block is idle. -/
def ready (env : Env) : State := { State.reset.booted with env := env }

/-- An environment that answers these bytes. -/
def bytes (l : List Byte) : Env := .unconstrained (l.map some)

/-- A sub-device with these registers, increment enabled, the default writable registers. -/
def chip (d : Device) (reg : Memory) : RefDevice := ⟨reg, 0, .idle, false, true, defaultWritable d, false, true⟩

/-- The reference device of 95_test_vectors.md with the identity bytes and a few samples. -/
def device : RefDev :=
  ⟨chip .ag [(0x0F, 0x68), (0x28, 0x34), (0x29, 0x12)], chip .m [(0x0F, 0x3D), (0x28, 0x34), (0x29, 0x12)], false⟩

/-- The state a step or a command answers with. -/
def after (o : Host.Outcome State Fault Refusal) : State :=
  match o with
  | .next s => s
  | .fault _ => State.reset
  | .refused _ => State.reset

/-! Well-formedness: the one check refuses. -/

theorem test_wellFormed_byteCount : ¬ Instr.WellFormed (.rdreg .ag 0x10 0) ∧ ¬ Instr.WellFormed (.rdreg .ag 0x10 3) ∧
    Instr.WellFormed (.rdreg .ag 0x10 1) ∧ Instr.WellFormed (.rdreg .ag 0x10 2) := by decide

/-! Encodings: E1 to E22, I1 to I15. -/

theorem test_decode_transport : decode 0x10000000 = some .init ∧ decode 0x20000000 = some (.sel .ag) ∧
    decode 0x20010000 = some (.sel .m) ∧ decode 0x30000000 = some (.desel .ag) ∧ decode 0x30010000 = some (.desel .m) ∧
    decode 0x40000000 = some (.xfer 0x00) ∧ decode 0x400000FF = some (.xfer 0xFF) ∧
    decode 0x400000A8 = some (.xfer 0xA8) := by decide

theorem test_decode_register : decode 0x500010C0 = some (.wrreg .ag 0x10 0xC0) ∧
    decode 0x50012200 = some (.wrreg .m 0x22 0x00) ∧ decode 0x50000000 = some (.wrreg .ag 0x00 0x00) ∧
    decode 0x50017FFF = some (.wrreg .m 0x7F 0xFF) ∧ decode 0x50008F00 = some (.rdreg .ag 0x0F 1) ∧
    decode 0x5001A200 = some (.rdreg .m 0x22 1) ∧ decode 0x5003A800 = some (.rdreg .m 0x28 2) ∧
    decode 0x50028000 = some (.rdreg .ag 0x00 2) ∧ decode 0x5003FF00 = some (.rdreg .m 0x7F 2) := by decide

theorem test_decode_accessors : decode 0x60000000 = some .rdax ∧ decode 0x60000001 = some .rday ∧
    decode 0x60000002 = some .rdaz ∧ decode 0x60000003 = some .rdgx ∧ decode 0x60000004 = some .rdgy ∧
    decode 0x60000005 = some .rdgz ∧ decode 0x60000006 = some .rdmx ∧ decode 0x60000007 = some .rdmy ∧
    decode 0x60000008 = some .rdmz ∧ decode 0x60000009 = some .rdtemp ∧ decode 0x6000000A = some (.rdid .ag) ∧
    decode 0x6001000A = some (.rdid .m) := by decide

/-- The illegal words I1 to I15. -/
def illegalWords : List Word :=
  [0x00000000, 0x70000000, 0xFFFFFFFF, 0x10000001, 0x20020000, 0x30008000, 0x40000100, 0x58000000,
   0x5004A800, 0x50020000, 0x50008001, 0x6000000B, 0x6000000F, 0x60010000, 0x60000010]

theorem test_decode_illegal : illegalWords.all (fun w => (decode w).isNone) = true := rfl

theorem test_table_illegal : illegalWords.all (fun w => opcodeTable.all (fun r => !decide (r.Matches w))) = true := rfl

/-- The table property of 95_test_vectors.md 2.1. -/
theorem test_table_matches_one_row : (opcodeTable.filter (fun r => r.Matches 0x50017FFF)).map OpcodeRow.mnemonic =
    ["WRREG"] ∧ (opcodeTable.filter (fun r => r.Matches 0x5002FF00)).map OpcodeRow.mnemonic = ["RDREG"] ∧
    (opcodeTable.filter (fun r => r.Matches 0x6001000A)).map OpcodeRow.mnemonic = ["RDID"] := by decide

theorem test_encode_written_words : encode (.rdreg .ag 0x7F 2) = 0x5002FF00 ∧ encode (.wrreg .ag 0x10 0xC0) = 0x500010C0 ∧
    encode (.rdid .m) = 0x6001000A ∧ encode (.xfer 0xA8) = 0x400000A8 := by decide

theorem test_decodeTableWord : decodeTableWord 32 0x60000009 = some .rdtemp ∧ decodeTableWord 32 0 = none := by decide

/-! Transport: T3, T4, T7, T8, T10. -/

theorem test_sel_other_low : (after (exec (.sel .m) { ready (bytes []) with agN := .low })).csoutWord = 0 ∧
    (after (exec (.sel .ag) { ready (bytes []) with agN := .low })).trace = [.cs .ag .low] := by decide

theorem test_desel_one : (after (exec (.desel .ag) { ready (bytes []) with agN := .low, mN := .low })).csoutWord = 1 := by
  decide

theorem test_xfer_exchange : (after (exec (.xfer 0x8F) { ready (bytes [0x5A]) with agN := .low })).response =
    some (some 0x005A) ∧
    (after (exec (.xfer 0x8F) { ready (bytes [0x5A]) with agN := .low })).txbuf = 0x8F ∧
    (after (exec (.xfer 0x8F) { ready (bytes [0x5A]) with agN := .low })).trace = [.xfer 0x8F 0x5A] := by decide

theorem test_xfer_hang : (after (exec (.xfer 0x00) (ready (.unconstrained [none])))).statusWord = 3 ∧
    (after (exec (.xfer 0x00) (ready (.unconstrained [none])))).cmd = some (.xfer 0x00) ∧
    (after (exec (.xfer 0x00) (ready (.unconstrained [none])))).trace = [] := by decide

/-! Register protocol: W3, D2, D3, D8, N1, N3. -/

theorem test_wrreg_frame : (after (exec (.wrreg .m 0x7F 0xFF) (ready (bytes [1, 2])))).trace =
    [.cs .m .low, .xfer 0x7F 1, .xfer 0xFF 2, .cs .m .high] ∧
    (after (exec (.wrreg .m 0x7F 0xFF) (ready (bytes [1, 2])))).td.word = 0x57FFF ∧
    (after (exec (.wrreg .m 0x7F 0xFF) (ready (bytes [1, 2])))).response = some none := by decide

theorem test_rdreg_one_byte : (after (exec (.rdreg .ag 0x0F 1) { ready (bytes [7, 0xFF]) with rdxbuf := 0x1234 })).response =
    some (some 0x00FF) ∧
    (after (exec (.rdreg .ag 0x0F 1) { ready (bytes [7, 0xFF]) with rdxbuf := 0x1234 })).rdxbuf = 0x00FF := by decide

theorem test_rdreg_two_bytes : (after (exec (.rdreg .m 0x28 2) (ready (bytes [7, 0x34, 0x12])))).response =
    some (some 0x1234) ∧
    (after (exec (.rdreg .m 0x28 2) (ready (bytes [7, 0x34, 0x12])))).trace =
      [.cs .m .low, .xfer 0xA8 7, .xfer 0x00 0x34, .xfer 0x00 0x12, .cs .m .high] ∧
    (after (exec (.rdreg .m 0x28 2) (ready (bytes [7, 0x34, 0x12])))).td.word = 0x7A800 := by decide

theorem test_rdreg_hang : (after (exec (.rdreg .m 0x28 2) (ready (.unconstrained [some 7, some 0x34, none])))).seq = 3 ∧
    (after (exec (.rdreg .m 0x28 2) (ready (.unconstrained [some 7, some 0x34, none])))).rdxbuf = 0x0034 ∧
    (after (exec (.rdreg .m 0x28 2) (ready (.unconstrained [some 7, some 0x34, none])))).csoutWord = 1 := by decide

/-- N1. -/
theorem test_init_trace : (after (exec .init { State.reset with env := bytes [1, 2, 3, 4, 5, 6, 7, 8, 9, 10, 11, 12] })).trace =
    Expect.initTrace (fun k => BitVec.ofNat 8 (k + 1)) := rfl

/-- N3. -/
theorem test_init_hang : (after (exec .init { State.reset with
      env := .unconstrained [some 1, some 2, some 3, some 4, some 5, none] })).seq = 11 ∧
    (after (exec .init { State.reset with
      env := .unconstrained [some 1, some 2, some 3, some 4, some 5, none] })).initd = false ∧
    (after (exec .init { State.reset with
      env := .unconstrained [some 1, some 2, some 3, some 4, some 5, none] })).agN = .low := by decide

/-! The scaling engine: the vectors X, G, M and C. -/

theorem test_scale_acc_low :
    ([0x0000, 0x0001, 0xFFFF, 0x0010, 0xFFF0, 0x0011, 0xFFEF] : List Half).map (scale .acc) =
      [0x0000, 0x0000, 0x0000, 0x0000, 0x0000, 0x0001, 0xFFFF] := rfl

theorem test_scale_acc_high :
    ([0x0100, 0x03E8, 0xFC18, 0x1234, 0x7FFF, 0x8000] : List Half).map (scale .acc) =
      [0x000F, 0x003D, 0xFFC3, 0x011C, 0x07CE, 0xF832] := rfl

theorem test_scale_gyr_low :
    ([0x0000, 0x0001, 0xFFFF, 0x0007, 0xFFF9, 0x0064, 0xFF9C, 0x03E8] : List Half).map (scale .gyr) =
      [0x0000, 0x0008, 0xFFF8, 0x003D, 0xFFC3, 0x036B, 0xFC95, 0x222E] := rfl

theorem test_scale_gyr_high :
    ([0xFC18, 0x0EA0, 0x0EA1, 0xF15F, 0xF15E, 0x1234, 0x7FFF, 0x8000] : List Half).map (scale .gyr) =
      [0xDDD2, 0x7FF8, 0x8000, 0x8000, 0x7FF7, 0x9F47, 0x5FF7, 0xA000] := rfl

theorem test_scale_mag_low :
    ([0x0000, 0x0007, 0xFFF9, 0x0008, 0xFFF8, 0x0063] : List Half).map (scale .mag) =
      [0x0000, 0x0000, 0x0000, 0x0001, 0xFFFF, 0x000D] := rfl

theorem test_scale_mag_high :
    ([0xFF9D, 0x03E8, 0x1234, 0x7FFF, 0x8000] : List Half).map (scale .mag) =
      [0xFFF3, 0x008C, 0x028C, 0x11EB, 0xEE15] := rfl

theorem test_scale_tmp_low :
    ([0x0000, 0x0001, 0xFFFF, 0xFFF6, 0x0010, 0xFFF0, 0xFFEF, 0x0063] : List Half).map (scale .tmp) =
      [0x0000, 0x0000, 0x0000, 0xFFFA, 0x000A, 0xFFF6, 0xFFF6, 0x003D] := rfl

theorem test_scale_tmp_high :
    ([0xFF9D, 0xFF60, 0x0190, 0x03E8, 0xF15E, 0x1234, 0x7FFF, 0x8000] : List Half).map (scale .tmp) =
      [0xFFC3, 0xFF9C, 0x00FA, 0x0271, 0xF6DB, 0x0B60, 0x4FFF, 0xB000] := rfl

/-! The accessors: A1 to A15. -/

theorem test_rdax : (after (exec .rdax (ready (bytes [7, 0x00, 0x01])))).response = some (some 0x000F) ∧
    (after (exec .rdax (ready (bytes [7, 0x00, 0x01])))).trace =
      [.cs .ag .low, .xfer 0xA8 7, .xfer 0x00 0x00, .xfer 0x00 0x01, .cs .ag .high] := by decide

/-- A14. -/
theorem test_rdax_absent : (after (exec .rdax (ready (bytes [7, 0xFF, 0xFF])))).response = some (some 0x0000) := by decide

theorem test_rday : (after (exec .rday (ready (bytes [7, 0xE8, 0x03])))).response = some (some 0x003D) ∧
    (after (exec .rday (ready (bytes [7, 0xE8, 0x03])))).trace =
      [.cs .ag .low, .xfer 0xAA 7, .xfer 0x00 0xE8, .xfer 0x00 0x03, .cs .ag .high] := by decide

theorem test_rdaz : (after (exec .rdaz (ready (bytes [7, 0x18, 0xFC])))).response = some (some 0xFFC3) ∧
    (after (exec .rdaz (ready (bytes [7, 0x18, 0xFC])))).trace =
      [.cs .ag .low, .xfer 0xAC 7, .xfer 0x00 0x18, .xfer 0x00 0xFC, .cs .ag .high] := by decide

theorem test_rdgx : (after (exec .rdgx (ready (bytes [7, 0x01, 0x00])))).response = some (some 0x0008) ∧
    (after (exec .rdgx (ready (bytes [7, 0x01, 0x00])))).trace =
      [.cs .ag .low, .xfer 0x98 7, .xfer 0x00 0x01, .xfer 0x00 0x00, .cs .ag .high] := by decide

theorem test_rdgy : (after (exec .rdgy (ready (bytes [7, 0xFF, 0xFF])))).response = some (some 0xFFF8) ∧
    (after (exec .rdgy (ready (bytes [7, 0xFF, 0xFF])))).trace =
      [.cs .ag .low, .xfer 0x9A 7, .xfer 0x00 0xFF, .xfer 0x00 0xFF, .cs .ag .high] := by decide

theorem test_rdgz_wraps : (after (exec .rdgz (ready (bytes [7, 0xA1, 0x0E])))).response = some (some 0x8000) ∧
    (after (exec .rdgz (ready (bytes [7, 0xA1, 0x0E])))).trace =
      [.cs .ag .low, .xfer 0x9C 7, .xfer 0x00 0xA1, .xfer 0x00 0x0E, .cs .ag .high] := by decide

theorem test_rdmx : (after (exec .rdmx (ready (bytes [7, 0x34, 0x12])))).response = some (some 0x028C) ∧
    (after (exec .rdmx (ready (bytes [7, 0x34, 0x12])))).trace =
      [.cs .m .low, .xfer 0xA8 7, .xfer 0x00 0x34, .xfer 0x00 0x12, .cs .m .high] := by decide

theorem test_rdmy : (after (exec .rdmy (ready (bytes [7, 0xF8, 0xFF])))).response = some (some 0xFFFF) ∧
    (after (exec .rdmy (ready (bytes [7, 0xF8, 0xFF])))).trace =
      [.cs .m .low, .xfer 0xAA 7, .xfer 0x00 0xF8, .xfer 0x00 0xFF, .cs .m .high] := by decide

theorem test_rdmz : (after (exec .rdmz (ready (bytes [7, 0xFF, 0x7F])))).response = some (some 0x11EB) ∧
    (after (exec .rdmz (ready (bytes [7, 0xFF, 0x7F])))).trace =
      [.cs .m .low, .xfer 0xAC 7, .xfer 0x00 0xFF, .xfer 0x00 0x7F, .cs .m .high] := by decide

theorem test_rdtemp : (after (exec .rdtemp (ready (bytes [7, 0x60, 0xFF])))).response = some (some 0xFF9C) ∧
    (after (exec .rdtemp (ready (bytes [7, 0x60, 0xFF])))).trace =
      [.cs .ag .low, .xfer 0x95 7, .xfer 0x00 0x60, .xfer 0x00 0xFF, .cs .ag .high] := by decide

theorem test_rdid : (after (exec (.rdid .m) (ready (bytes [7, 0x3D])))).response = some (some 0x003D) ∧
    (after (exec (.rdid .m) (ready (bytes [7, 0x3D])))).trace =
      [.cs .m .low, .xfer 0x8F 7, .xfer 0x00 0x3D, .cs .m .high] := by decide

/-- A13: the byte is not reinterpreted. -/
theorem test_rdid_absent : (after (exec (.rdid .ag) (ready (bytes [7, 0xFF])))).response = some (some 0x00FF) := by decide

/-! The reference device: D6, D7, P3, P5. -/

/-- D6: the pointer wraps. -/
theorem test_refDev_wrap : (after (exec (.rdreg .ag 0x7F 2)
    (ready (.refDev ⟨chip .ag [(0x00, 0xCD), (0x7F, 0xAB)], chip .m [], false⟩)))).res = 0xCDAB := by decide

/-- D7: without the increment capability both bytes come from one location. -/
theorem test_refDev_no_increment : (after (exec (.rdreg .ag 0x28 2)
    (ready (.refDev ⟨{ chip .ag [(0x28, 0x34), (0x29, 0x12)] with ainc := false }, chip .m [], false⟩)))).res = 0x3434 := by
  decide

/-- P3: a write to a writable register takes effect, another is ignored. -/
theorem test_refDev_write : (after (exec (.wrreg .ag 0x10 0xC0) (ready (.refDev device)))).env.regAt .ag 0x10 = some 0xC0 ∧
    (after (exec (.wrreg .ag 0x0F 0x00) (ready (.refDev device)))).env.regAt .ag 0x0F = some 0x68 ∧
    (after (exec (.wrreg .m 0x10 0xFF) (ready (.refDev device)))).env.regAt .ag 0x10 = some 0x00 := by decide

/-- P2: each read frame of two bytes advances the pointer twice. -/
theorem test_refDev_pointer : (match (after (exec .rdgz (ready (.refDev device)))).env with
    | .refDev r => r.ag.ptr
    | .unconstrained _ => 0) = 0x1E := by decide

/-- P5: with both lines low the block's own state stays defined. -/
theorem test_both_lines_low : (after (exec .rdmx { ready (bytes [1, 2, 3]) with agN := .low })).csoutWord = 2 ∧
    (after (exec .rdmx { ready (bytes [1, 2, 3]) with agN := .low })).rdxbuf = 0x0302 := by decide

/-! The step: P6, P7, the hang of P8, reset. -/

theorem test_illegal_word : (after (step { State.reset with host := [0x50020000] })).statusWord = 4 ∧
    (after (step { State.reset with host := [0x50020000] })).response = some none ∧
    (after (step { State.reset with host := [0x50020000] })).trace = [] := by decide

theorem test_before_init : step { State.reset with host := [0x60000000] } = .refused .notInitialised := rfl

theorem test_hang_waits : (after (step (after (exec .rdax (ready (.unconstrained [some 7, none])))))).seq = 2 ∧
    (after (step (after (exec .rdax (ready (.unconstrained [some 7, none])))))).cmd = some .rdax := by decide

theorem test_reset_leaves_hang : (after (step { after (exec .rdax (ready (.unconstrained [some 7, none]))) with
      resets := [0] })).cmd = none ∧
    (after (step { after (exec .rdax (ready (.unconstrained [some 7, none]))) with resets := [0] })).statusWord = 0 := by
  decide

/-- 70_reset_and_hazards.md R250: a reset before the word is taken, and one after it and before the first bus step. -/
theorem test_reset_around_acceptance :
    (after (step { ready (bytes []) with host := [0x20000000], resets := [0] })).host = [0x20000000] ∧
    (after (step { ready (bytes []) with host := [0x20000000], resets := [1] })).host = [] ∧
    (after (step { ready (bytes []) with host := [0x20000000], resets := [1] })).trace = [] ∧
    (after (step { ready (bytes []) with host := [0x20000000], resets := [1] })).initd = false := by decide

theorem test_withFetchWord : (after (step (({ State.reset with env := bytes [7, 0x68] }).withFetchWord 32 0x6000000A))).res =
    0x0068 := by decide

/-! The assembler (30_encoding.md R120; the lines of 95_test_vectors.md programs). -/

theorem test_assemble_lines : assembleLine "RDREG M, 0x28, 2 ; read".toList = .command (.rdreg .m 0x28 2) ∧
    assembleLine "WRREG AG, 0x10, 0xC0".toList = .command (.wrreg .ag 0x10 0xC0) ∧
    assembleLine "XFER 168".toList = .command (.xfer 0xA8) ∧ assembleLine "RDTEMP".toList = .command .rdtemp ∧
    assembleLine "; a comment".toList = .empty := by decide

theorem test_assemble_errors : assembleLine "XFER 0x100".toList = .error ∧ assembleLine "RDREG AG, 0x80, 1".toList = .error ∧
    assembleLine "RDREG AG, 0x10, 3".toList = .error ∧ assembleLine "SEL".toList = .error := by decide

/-! A state and operands that meet the hypotheses of each statement that has some, with boundary values of its clauses. -/

/-- The reference device in the middle of a write frame on `AG`, at a writable register. -/
def inWrite : RefDev := { device with ag := { device.ag with phase := .data, ptr := 0x10 } }

theorem test_witness_DecodeOfEncode :
    Instr.WellFormed (.rdreg .m 0x7F 2) ∧ Instr.WellFormed (.rdreg .ag 0x00 1) ∧ Instr.WellFormed .init :=
  ⟨.inr rfl, .inl rfl, trivial⟩

theorem test_witness_EncodeOfDecode :
    decode 0x50017FFF = some (.wrreg .m 0x7F 0xFF) :=
  rfl

theorem test_witness_DecodeAgreesWithOpcodeTable :
    decode 0x6001000A = some (.rdid .m) ∧ decode 0x6000000B = none :=
  ⟨rfl, rfl⟩

theorem test_witness_MajorOpcodeMap :
    slice (0x0FFFFFFF : Word) 31 28 = 0 ∧ 7 ≤ slice (0x70000000 : Word) 31 28 ∧ 7 ≤ slice (0xFFFFFFFF : Word) 31 28 ∧
    slice (0x10000000 : Word) 31 28 = 1 ∧ slice (0x20010000 : Word) 31 28 = 2 ∧ slice (0x30000000 : Word) 31 28 = 3 ∧
    slice (0x400000FF : Word) 31 28 = 4 ∧ slice (0x50017FFF : Word) 15 15 = 0 ∧ slice (0x5003FF00 : Word) 15 15 = 1 ∧
    slice (0x6000000A : Word) 31 28 = 6 :=
  by decide

theorem test_witness_RegisterWordMirrorsWireBytes :
    decode 0x5003A800 = some (.rdreg .m 0x28 2) ∧ slice (0x5003A800 : Word) 31 28 = 5 ∧
    (ready (bytes [7, 8, 9])).Accepts (.rdreg .m 0x28 2) ∧ (ready (bytes [7, 8, 9])).quietFor 5 = true ∧
    (ready (bytes [7, 8, 9])).env.completes 3 0 = true ∧
    ∃ t, exec (.rdreg .m 0x28 2) (ready (bytes [7, 8, 9])) = .next t :=
  ⟨rfl, rfl, ⟨rfl, .inr rfl, .inr rfl⟩, rfl, rfl, _, rfl⟩

theorem test_witness_StepRunsDecodedCommand :
    ({ ready (bytes []) with host := [0x20010000] } : State).resetNow = false ∧
    ({ ready (bytes []) with host := [0x20010000] } : State).cmd = none ∧ decode 0x20010000 = some (.sel .m) :=
  ⟨rfl, rfl, rfl⟩

theorem test_witness_IllegalWordOnlySetsIll :
    ({ State.reset with host := [0x50020000] } : State).resetNow = false ∧
    ({ State.reset with host := [0x50020000] } : State).cmd = none ∧ decode 0x50020000 = none :=
  ⟨rfl, rfl, rfl⟩

theorem test_witness_CommandsBeforeInitAreRefused :
    Instr.WellFormed .rdax ∧ State.reset.cmd = none ∧ State.reset.initd = false ∧
    ({ ready (bytes []) with mstr := false } : State).mstr = false ∧
    ({ ready (bytes []) with msbf := false } : State).msbf = false :=
  ⟨trivial, rfl, rfl, rfl, rfl⟩

theorem test_witness_BusyBlockAcceptsNothing :
    Instr.WellFormed .rdax ∧ ({ ready (bytes []) with cmd := some .rday, busy := true } : State).cmd ≠ none :=
  ⟨trivial, by decide⟩

theorem test_witness_NoOtherByteCount :
    (0 : Nat) ≠ 1 ∧ (0 : Nat) ≠ 2 ∧ (3 : Nat) ≠ 1 ∧ (3 : Nat) ≠ 2 ∧ decode 0x5002FF00 = some (.rdreg .ag 0x7F 2) :=
  by decide

theorem test_witness_IdleBlockWaits :
    State.reset.resetNow = false ∧ State.reset.cmd = none ∧ State.reset.host = [] :=
  ⟨rfl, rfl, rfl⟩

theorem test_witness_ResetWinsOverEverything :
    ({ ready (.refDev device) with cmd := some .rdax, busy := true, agN := .low, resets := [0] } : State).resetNow = true ∧
    ({ ready (.refDev device) with cmd := some .rdax, busy := true, agN := .low, resets := [0] } : State).line .ag = .low :=
  ⟨rfl, rfl⟩

theorem test_witness_ResetAbandonsRunningCommand :
    ({ ready (bytes [1, 2, 3]) with resets := [0, 9] } : State).Accepts .rdax ∧
    ({ ready (bytes [1, 2, 3]) with resets := [4, 9] } : State).Accepts .rdax ∧ 0 < Instr.rdax.busSteps ∧
    4 < Instr.rdax.busSteps ∧ (ready (bytes [1, 2, 3])).env.completes Instr.rdax.transfers 0 = true :=
  ⟨⟨rfl, trivial, .inr rfl⟩, ⟨rfl, trivial, .inr rfl⟩, by decide, by decide, rfl⟩

theorem test_witness_SelAssertsOneLine :
    (ready (bytes [])).Accepts (.sel .ag) ∧ (ready (bytes [])).quietFor 1 = true ∧
    ({ ready (bytes []) with resets := [1] } : State).quietFor 1 = true :=
  ⟨⟨rfl, trivial, .inr rfl⟩, rfl, rfl⟩

theorem test_witness_DeselDeassertsOneLine :
    (ready (bytes [])).Accepts (.desel .m) ∧ (ready (bytes [])).quietFor 1 = true ∧
    ({ ready (bytes []) with resets := [1] } : State).quietFor 1 = true :=
  ⟨⟨rfl, trivial, .inr rfl⟩, rfl, rfl⟩

theorem test_witness_XferExchangesOneByte :
    (ready (bytes [0xFF])).Accepts (.xfer 0x00) ∧ (ready (bytes [0xFF])).quietFor 1 = true ∧
    (ready (bytes [0xFF])).env.answer (ready (bytes [0xFF])).lines 0x00 0 = ⟨some 0xFF, .unconstrained []⟩ ∧
    (ready (.unconstrained [none])).Accepts (.xfer 0x00) ∧
    (ready (.unconstrained [none])).env.answer (ready (bytes [0xFF])).lines 0x00 0 = ⟨none, .unconstrained []⟩ :=
  ⟨⟨rfl, trivial, .inr rfl⟩, rfl, rfl, ⟨rfl, trivial, .inr rfl⟩, rfl⟩

theorem test_witness_TransportFrame :
    (∃ t, exec (.sel .m) (ready (bytes [])) = .next t) ∧ (∃ t, exec (.desel .m) (ready (bytes [])) = .next t) ∧
    (∃ t, exec (.xfer 0xA8) (ready (bytes [1])) = .next t) ∧ (ready (bytes [1])).quietFor 1 = true :=
  ⟨⟨_, rfl⟩, ⟨_, rfl⟩, ⟨_, rfl⟩, rfl⟩

theorem test_witness_MostSignificantBitFirst :
    (0 : Nat) < 8 ∧ (7 : Nat) < 8 ∧ [true, false, false, false, false, false, false, true].length = 8 :=
  by decide

theorem test_witness_WrregWritesOneFrame :
    (ready (bytes [1, 2])).Accepts (.wrreg .m 0x7F 0xFF) ∧ (ready (bytes [1, 2])).quietFor 4 = true ∧
    (ready (bytes [1, 2])).frameAnswers .m [writeByte 0x7F, 0xFF] = some ([1, 2], .unconstrained []) ∧
    (ready (.unconstrained [some 1, none])).Accepts (.wrreg .m 0x7F 0xFF) ∧
    (ready (.unconstrained [some 1, none])).frameAnswers .m [writeByte 0x7F, 0xFF] = none :=
  ⟨⟨rfl, trivial, .inr rfl⟩, rfl, rfl, ⟨rfl, trivial, .inr rfl⟩, rfl⟩

theorem test_witness_RdregReadsOneOrTwoBytes :
    (ready (bytes [1, 2, 3])).Accepts (.rdreg .ag 0x00 1) ∧ (ready (bytes [1, 2, 3])).Accepts (.rdreg .ag 0x7F 2) ∧
    (ready (bytes [1, 2, 3])).quietFor 5 = true ∧
    (ready (bytes [1, 2, 3])).frameAnswers .ag [readByte 0x00, 0x00] = some ([1, 2], .unconstrained [some 3]) ∧
    (ready (bytes [1, 2, 3])).frameAnswers .ag [readByte 0x7F, 0x00, 0x00] = some ([1, 2, 3], .unconstrained []) :=
  ⟨⟨rfl, .inl rfl, .inr rfl⟩, ⟨rfl, .inr rfl, .inr rfl⟩, rfl, rfl, rfl⟩

theorem test_witness_RdregReadsOneOrTwoBytes_hang :
    (ready (.unconstrained [some 1, none])).Accepts (.rdreg .ag 0x00 1) ∧
    (ready (.unconstrained [some 1, none])).frameAnswers .ag [readByte 0x00, 0x00] = none ∧
    (ready (.unconstrained [some 1, some 2, none])).Accepts (.rdreg .ag 0x7F 2) ∧
    (ready (.unconstrained [some 1, some 2, none])).frameAnswers .ag [readByte 0x7F, 0x00] =
      some ([1, 2], .unconstrained [none]) ∧
    (ready (.unconstrained [some 1, some 2, none])).frameAnswers .ag [readByte 0x7F, 0x00, 0x00] = none :=
  ⟨⟨rfl, .inl rfl, .inr rfl⟩, rfl, ⟨rfl, .inr rfl, .inr rfl⟩, rfl, rfl⟩

theorem test_witness_InitRunsScript :
    State.reset.cmd = none ∧ State.reset.quietFor 25 = true ∧ State.reset.lines = Lines.bothHigh ∧
    (bytes (List.ofFn (fun k : Fin 12 => BitVec.ofNat 8 k))).completes 12 0 = true ∧
    (Env.unconstrained [none]).completes 12 0 = false ∧
    bytes (List.ofFn (fun k : Fin 12 => BitVec.ofNat 8 k)) =
      .unconstrained ((List.ofFn (fun k : Fin 12 => BitVec.ofNat 8 k)).map some ++ []) :=
  ⟨rfl, rfl, rfl, rfl, rfl, rfl⟩

theorem test_witness_AccelerationAccessors :
    (ready (bytes [1, 2, 3])).Accepts .rdax ∧
    (ready (bytes [1, 2, 3])).frameAnswers .ag [readByte 0x28, 0x00, 0x00] = some ([1, 2, 3], .unconstrained []) ∧
    (ready (bytes [1, 2, 3])).Accepts .rday ∧
    (ready (bytes [1, 2, 3])).frameAnswers .ag [readByte 0x2A, 0x00, 0x00] = some ([1, 2, 3], .unconstrained []) ∧
    (ready (bytes [1, 2, 3])).Accepts .rdaz ∧
    (ready (bytes [1, 2, 3])).frameAnswers .ag [readByte 0x2C, 0x00, 0x00] = some ([1, 2, 3], .unconstrained []) ∧
    (ready (bytes [1, 2, 3])).quietFor 5 = true ∧ -17 < sint16 0xFFF0 ∧ sint16 0x0010 < 17 :=
  ⟨⟨rfl, trivial, .inr rfl⟩, rfl, ⟨rfl, trivial, .inr rfl⟩, rfl, ⟨rfl, trivial, .inr rfl⟩, rfl, rfl, by decide⟩

theorem test_witness_AngularRateAccessors :
    (ready (bytes [1, 2, 3])).Accepts .rdgx ∧
    (ready (bytes [1, 2, 3])).frameAnswers .ag [readByte 0x18, 0x00, 0x00] = some ([1, 2, 3], .unconstrained []) ∧
    (ready (bytes [1, 2, 3])).Accepts .rdgy ∧
    (ready (bytes [1, 2, 3])).frameAnswers .ag [readByte 0x1A, 0x00, 0x00] = some ([1, 2, 3], .unconstrained []) ∧
    (ready (bytes [1, 2, 3])).Accepts .rdgz ∧
    (ready (bytes [1, 2, 3])).frameAnswers .ag [readByte 0x1C, 0x00, 0x00] = some ([1, 2, 3], .unconstrained []) ∧
    (ready (bytes [1, 2, 3])).quietFor 5 = true ∧ sint16 0xF15F = -3745 ∧ sint16 0x0EA0 = 3744 ∧ sint16 0xF15E = -3746 ∧ sint16 0x0EA1 = 3745 :=
  ⟨⟨rfl, trivial, .inr rfl⟩, rfl, ⟨rfl, trivial, .inr rfl⟩, rfl, ⟨rfl, trivial, .inr rfl⟩, rfl, rfl, by decide⟩

theorem test_witness_MagneticFieldAccessors :
    (ready (bytes [1, 2, 3])).Accepts .rdmx ∧
    (ready (bytes [1, 2, 3])).frameAnswers .m [readByte 0x28, 0x00, 0x00] = some ([1, 2, 3], .unconstrained []) ∧
    (ready (bytes [1, 2, 3])).Accepts .rdmy ∧
    (ready (bytes [1, 2, 3])).frameAnswers .m [readByte 0x2A, 0x00, 0x00] = some ([1, 2, 3], .unconstrained []) ∧
    (ready (bytes [1, 2, 3])).Accepts .rdmz ∧
    (ready (bytes [1, 2, 3])).frameAnswers .m [readByte 0x2C, 0x00, 0x00] = some ([1, 2, 3], .unconstrained []) ∧
    (ready (bytes [1, 2, 3])).quietFor 5 = true ∧ -8 < sint16 0xFFF9 ∧ sint16 0x0007 < 8 :=
  ⟨⟨rfl, trivial, .inr rfl⟩, rfl, ⟨rfl, trivial, .inr rfl⟩, rfl, ⟨rfl, trivial, .inr rfl⟩, rfl, rfl, by decide⟩

theorem test_witness_TemperatureAccessor :
    (ready (bytes [1, 2, 3])).Accepts .rdtemp ∧
    (ready (bytes [1, 2, 3])).frameAnswers .ag [readByte 0x15, 0x00, 0x00] = some ([1, 2, 3], .unconstrained []) ∧
    (ready (bytes [1, 2, 3])).quietFor 5 = true :=
  ⟨⟨rfl, trivial, .inr rfl⟩, rfl, rfl⟩

theorem test_witness_IdentityAccessor :
    (ready (bytes [1, 0xFF])).Accepts (.rdid .ag) ∧ (ready (bytes [1, 0xFF])).quietFor 4 = true ∧
    (ready (bytes [1, 0xFF])).frameAnswers .ag [0x8F, 0x00] = some ([1, 0xFF], .unconstrained []) :=
  ⟨⟨rfl, trivial, .inr rfl⟩, rfl, rfl⟩

theorem test_witness_ProductIsExact :
    (0 : Int) < BitVec.toInt (0x7FFF : Half) ∧ BitVec.toInt (0x8000 : Half) < 0 :=
  by decide

theorem test_witness_DivisionTruncatesTowardZero :
    0 < product .acc 0x0001 ∧ product .acc 0xFFFF < 0 ∧ product .acc 0x0000 = 0 :=
  by decide

theorem test_witness_NarrowingWraps :
    (-32768 ≤ quotient .gyr 0xF15F ∧ quotient .gyr 0xF15F ≤ 32767) ∧ quotient .gyr 0xF15E < -32768 ∧
    32767 < quotient .gyr 0x0EA1 :=
  by decide

theorem test_witness_ScalingRanges :
    (-16 ≤ sint16 0xFFF0 ∧ sint16 0x0010 ≤ 16) ∧ (-3745 ≤ sint16 0xF15F ∧ sint16 0x0EA0 ≤ 3744) ∧
    (-7 ≤ sint16 0xFFF9 ∧ sint16 0x0007 ≤ 7) ∧ (-1 ≤ sint16 0xFFFF ∧ sint16 0x0001 ≤ 1) :=
  by decide

theorem test_witness_AccessorIsScaledRdreg :
    acctab .rdmz = some ⟨.m, 0x2C, .mag⟩ ∧ (ready (bytes [1, 2, 3])).Accepts .rdmz ∧
    (ready (bytes [1, 2, 3])).quietFor 5 = true ∧ (ready (bytes [1, 2, 3])).env.completes 3 0 = true :=
  ⟨rfl, ⟨rfl, trivial, .inr rfl⟩, rfl, rfl⟩

theorem test_witness_HandBuiltFrameHasTheTraceOfWrreg :
    (ready (bytes [1, 2])).Accepts (.wrreg .ag 0x10 0xC0) ∧ (ready (bytes [1, 2])).quietFor 4 = true ∧
    (ready (bytes [1, 2])).env.completes 2 0 = true :=
  ⟨⟨rfl, trivial, .inr rfl⟩, rfl, rfl⟩

theorem test_witness_CommandsCompleteInTheirBusSteps :
    (ready (.refDev device)).Accepts .init ∧ (ready (.refDev device)).quietFor 25 = true ∧
    (ready (.refDev device)).env.completes 12 0 = true :=
  ⟨⟨rfl, trivial, .inl rfl⟩, rfl, rfl⟩

theorem test_witness_CommandsHangInTheirTransfer :
    (ready (.unconstrained [some 1, none])).Accepts .rdax ∧
    (ready (.unconstrained [some 1, none])).quietFor 5 = true ∧
    (ready (.unconstrained [some 1, none])).env.completes 3 0 = false ∧ Instr.rdax.composite = true :=
  ⟨⟨rfl, trivial, .inr rfl⟩, rfl, rfl, rfl⟩

theorem test_witness_HangLastsUntilReset :
    (after (exec .rdax (ready (.unconstrained [some 1, none])))).Hung ∧
    (after (exec .rdax (ready (.unconstrained [some 1, none])))).resetNow = false :=
  ⟨⟨by decide, rfl⟩, rfl⟩

theorem test_witness_SequencerCounterIsThePosition :
    (ready (bytes [1, 2])).Accepts (.wrreg .ag 0x10 0xC0) ∧
    (∃ u, ((ready (bytes [1, 2])).accept (.wrreg .ag 0x10 0xC0) (planOf (.wrreg .ag 0x10 0xC0))).firstSteps
      ((planOf (.wrreg .ag 0x10 0xC0)).steps.take 0) = .running u ∧ u.busy = false ∧ u.resetNow = false) ∧
    ∃ u, ((ready (bytes [1, 2])).accept (.wrreg .ag 0x10 0xC0) (planOf (.wrreg .ag 0x10 0xC0))).firstSteps
      ((planOf (.wrreg .ag 0x10 0xC0)).steps.take 4) = .running u ∧ u.busy = false ∧ u.resetNow = false :=
  ⟨⟨rfl, trivial, .inr rfl⟩, ⟨_, rfl, rfl, rfl⟩, _, rfl, rfl, rfl⟩

theorem test_witness_ChipSelectsAreExclusive :
    Instr.composite .rdmx = true ∧ (ready (bytes [1, 2, 3])).Accepts .rdmx ∧
    (ready (bytes [1, 2, 3])).lines = Lines.bothHigh ∧ (ready (bytes [1, 2, 3])).quietFor 5 = true ∧
    ∃ t, exec .rdmx (ready (bytes [1, 2, 3])) = .next t ∧ t.cmd = none :=
  ⟨rfl, ⟨rfl, trivial, .inr rfl⟩, rfl, rfl, _, rfl, rfl⟩

theorem test_witness_WholeCommandsKeepSafe :
    Instr.composite .rdmx = true ∧ (ready (bytes [1, 2, 3])).Accepts .rdmx ∧ (ready (bytes [1, 2, 3])).Safe ∧
    (ready (bytes [1, 2, 3])).lines = Lines.bothHigh ∧ (ready (bytes [1, 2, 3])).quietFor 5 = true ∧
    (ready (bytes [1, 2, 3])).env.completes 3 0 = true :=
  ⟨rfl, ⟨rfl, trivial, .inr rfl⟩, ⟨rfl, fun h => h.1 rfl, .inl rfl⟩, rfl, rfl, rfl⟩

theorem test_witness_AnswersDoNotChangeTheBusSequence :
    (ready (bytes [1, 2])).Accepts (.rdid .ag) ∧ (ready (bytes [1, 2])).quietFor 4 = true ∧
    (∃ t, exec (.rdid .ag) (ready (bytes [1, 2])) = .next t ∧ t.cmd = none) ∧
    (∃ u, exec (.rdid .ag) { ready (bytes [1, 2]) with env := bytes [3, 4], draws := 5 } = .next u ∧ u.cmd = none) :=
  ⟨⟨rfl, trivial, .inr rfl⟩, rfl, ⟨_, rfl, rfl⟩, _, rfl, rfl⟩

theorem test_witness_StepKeepsInvariant :
    State.Inv { State.reset with host := [0x10000000], env := .refDev device } ∧
    ∃ t, step { State.reset with host := [0x10000000], env := .refDev device } = .next t :=
  ⟨⟨by decide, fun _ => ⟨rfl, rfl⟩, fun _ h => (nomatch h), .inl ⟨rfl, rfl, rfl⟩, fun h => (nomatch h), fun h => (nomatch h),
    fun h => (nomatch h)⟩, _, rfl⟩

theorem test_witness_LinesFollowTheEvents :
    ({ ready (bytes []) with host := [0x20010000], resets := [26] } : State).quietFor 26 = true ∧
    ∃ t, step { ready (bytes []) with host := [0x20010000], resets := [26] } = .next t :=
  ⟨rfl, _, rfl⟩

theorem test_witness_OnlyInitConfigures :
    ({ ready (bytes []) with host := [0x20010000] } : State).quietFor 26 = true ∧
    ({ ready (bytes []) with host := [0x20010000] } : State).cmd ≠ some .init ∧ decode 0x20010000 ≠ some .init ∧
    ∃ t, step { ready (bytes []) with host := [0x20010000] } = .next t :=
  ⟨rfl, by decide, by decide, _, rfl⟩

theorem test_witness_InitdAndIllAreSticky :
    ({ ready (bytes []) with host := [0x00000000] } : State).quietFor 26 = true ∧
    ({ ready (bytes []) with host := [0x00000000] } : State).initd = true ∧
    ({ ready (bytes []) with host := [0x00000000] } : State).ill = false ∧
    ∃ t, step { ready (bytes []) with host := [0x00000000] } = .next t ∧ t.ill = true :=
  ⟨rfl, rfl, rfl, _, rfl, rfl⟩

theorem test_witness_ScratchAndResponseFrame :
    (ready (bytes [1, 2])).quietFor 25 = true ∧ (∃ t, exec (.xfer 0x01) (ready (bytes [1, 2])) = .next t) ∧
    ∃ t, exec .init { State.reset with env := .refDev device } = .next t :=
  ⟨rfl, ⟨_, rfl⟩, _, rfl⟩

theorem test_witness_TablesFollowTheRegisterMap : acctab .rdmz = some ⟨.m, 0x2C, .mag⟩ := rfl

theorem test_witness_RegisterSpaceIsCanonicalStorage :
    Memory.wf [(0x0F, 0x68), (0x28, 0x34)] = true ∧ (0x0F : Addr) ≠ 0x10 :=
  by decide

theorem test_witness_WrregStoresOneByte :
    (ready (.refDev device)).Accepts (.wrreg .ag 0x10 0xC0) ∧ (ready (.refDev device)).quietFor 4 = true ∧
    (ready (.refDev device)).lines = Lines.bothHigh ∧ device.outside = false ∧
    (ready (.refDev device)).env.memWf = true ∧ (0x10 : Addr) ∈ (device.sub .ag).writable ∧
    (0x0F : Addr) ∉ (device.sub .ag).writable :=
  ⟨⟨rfl, trivial, .inr rfl⟩, rfl, rfl, rfl, by decide, by decide, by decide⟩

theorem test_witness_InitStoresItsData :
    ({ State.reset with env := .refDev device } : State).cmd = none ∧
    ({ State.reset with env := .refDev device } : State).quietFor 25 = true ∧
    ({ State.reset with env := .refDev device } : State).lines = Lines.bothHigh ∧ device.outside = false ∧
    (Env.refDev device).memWf = true ∧ device.ag.writable = defaultWritable .ag ∧
    device.m.writable = defaultWritable .m ∧ (0x0F : Addr) ∉ defaultWritable .ag ∧ (0x10 : Addr) ∉ defaultWritable .m :=
  ⟨rfl, rfl, rfl, rfl, by decide, rfl, rfl, by decide, by decide⟩

theorem test_witness_ReadsLeaveTheDeviceRegisters :
    (acctab .rdtemp).isSome = true ∧ (ready (.refDev device)).lines = Lines.bothHigh ∧
    (ready (.refDev device)).quietFor 5 = true ∧ (∃ t, exec .rdtemp (ready (.refDev device)) = .next t) ∧
    (∃ t, exec (.rdreg .ag 0x7F 2) (ready (.refDev device)) = .next t) ∧
    ∃ t, exec (.rdid .m) (ready (.refDev device)) = .next t :=
  ⟨rfl, rfl, rfl, ⟨_, rfl⟩, ⟨_, rfl⟩, _, rfl⟩

theorem test_witness_TransportLeavesOtherDeviceRegisters :
    (∃ t, exec (.sel .ag) (ready (.refDev device)) = .next t) ∧ (ready (.refDev device)).quietFor 1 = true ∧
    ({ ready (.refDev inWrite) with agN := .low } : State).lines.Exclusive ∧
    ({ ready (.refDev inWrite) with agN := .low } : State).cmd = none ∧ (Env.refDev inWrite).memWf = true ∧
    (∃ t, exec (.xfer 0xC0) { ready (.refDev inWrite) with agN := .low } = .next t) ∧
    (Env.refDev inWrite).storeTarget ⟨.low, .high⟩ = some (.ag, 0x10) ∧
    (Env.refDev device).storeTarget ⟨.high, .high⟩ = none :=
  ⟨⟨_, rfl⟩, rfl, .inr rfl, rfl, by decide, ⟨_, rfl⟩, by decide, by decide⟩

theorem test_witness_WriteThenReadBack :
    (ready (.refDev device)).Accepts (.wrreg .m 0x22 0xFF) ∧ (ready (.refDev device)).quietFor 8 = true ∧
    (ready (.refDev device)).lines = Lines.bothHigh ∧ device.outside = false ∧
    (ready (.refDev device)).env.memWf = true ∧ (0x22 : Addr) ∈ (device.sub .m).writable :=
  ⟨⟨rfl, trivial, .inr rfl⟩, rfl, rfl, rfl, by decide, by decide⟩

/-- A second SEL of a sub-device: the next byte is an address where its parameter follows 20_memory.md R77, and a data byte
where it follows 70_reset_and_hazards.md R258. -/
theorem test_refDev_repeated_select :
    (match (after (exec (.sel .ag) { ready (.refDev inWrite) with agN := .low })).env with
      | .refDev r => r.ag.phase
      | .unconstrained _ => .idle) = .addr ∧
    (match (after (exec (.sel .ag) { ready (.refDev { inWrite with ag := { inWrite.ag with restarts := false } }) with
        agN := .low })).env with
      | .refDev r => r.ag.phase
      | .unconstrained _ => .idle) = .data := by decide

/-- 20_memory.md R81 also after a second data byte of a write frame: both lines low leave no register as it was known. -/
theorem test_refDev_both_low_outside (n : Nat) (tx : Byte) :
    (Env.refDev { device with outside := true }).answer ⟨.low, .low⟩ tx n = ⟨some (Config.freeByte n), .refDev
      ⟨device.ag.unknown n .ag, device.m.unknown n .m, true⟩⟩ := rfl

/-- 20_memory.md R82: the reference device answers as `DEV_ANSWERS` and `DEV_AUTOINC` say. -/
theorem test_witness_TwoByteReadUnderAutoIncrement : (ready (.refDev device)).Accepts (.rdreg .ag 0x28 2) ∧
    (ready (.refDev device)).quietFor 5 = true ∧ (ready (.refDev device)).env.completes 3 0 = true ∧
    DevAnswers .ag device.ag.reg.read (fun k => 0x28 + BitVec.ofNat 7 k) 0x28 (ready (.refDev device)) ∧
    DevAutoinc .ag device.ag.reg.read 0x28 (ready (.refDev device)) ∧ (ready (.refDev device)).ainc = true := by
  refine ⟨⟨rfl, .inr rfl, .inr rfl⟩, rfl, rfl, ⟨rfl, rfl, ?_⟩, ?_, rfl⟩
  · intro n x data e hn h k hk
    obtain rfl | rfl : n = 1 ∨ n = 2 := by omega
    · obtain rfl : k = 0 := by omega
      rw [List.replicate, List.replicate, refDev_readOne _ device .ag 0x28 rfl rfl rfl] at h
      cases h; rfl
    · rw [List.replicate, List.replicate, List.replicate, refDev_readTwo _ device .ag 0x28 rfl rfl rfl] at h
      cases h
      obtain rfl | rfl : k = 0 ∨ k = 1 := by omega
      · rfl
      · rfl
  · intro _ x lo hi e h
    rw [refDev_readTwo _ device .ag 0x28 rfl rfl rfl] at h
    cases h; exact ⟨0x29, rfl, rfl⟩

theorem test_witness_ReferenceDeviceMeetsTheAssumptions : (ready (.refDev device)).lines = Lines.bothHigh ∧
    device.outside = false ∧ (device.sub .ag).ainc = true ∧ (0x28 : Addr) ≠ 0x7F ∧ (ready (.refDev device)).ainc = true ∧
    (({ device with m := { device.m with ainc := false } } : RefDev).sub .m).ainc = false := by decide

theorem test_witness_ReferenceDeviceSeesItsLine :
    (ready (.refDev inWrite)).quietFor 1 = true ∧ (ready (.refDev inWrite)).Accepts (.sel .ag) ∧
    (ready (.refDev inWrite)).Accepts (.desel .ag) ∧ (ready (.refDev inWrite)).line .ag = .high ∧
    ({ ready (.refDev inWrite) with agN := .low } : State).line .ag = .low ∧ (inWrite.sub .ag).restarts = true ∧
    (({ inWrite with ag := { inWrite.ag with restarts := false } } : RefDev).sub .ag).restarts = false :=
  ⟨rfl, ⟨rfl, trivial, .inr rfl⟩, ⟨rfl, trivial, .inr rfl⟩, rfl, rfl, rfl, rfl⟩

end Sys2Proof.Tests
end

section
/-! PROOFS. The family of 10_state.md: what the ports and the control registers read in a state after reset. -/

namespace Sys2Proof.Machine

/-- R25, R40: the command port is ready exactly while no command is held. -/
theorem State.cmdReady_iff (s : State) : s.cmdReady = true ↔ s.cmd = none := Option.isNone_iff_eq_none

section afterReset

variable {t : State} (h : t.AfterReset)
include h

theorem State.AfterReset.cmdReady_eq : t.cmdReady = true := t.cmdReady_iff.mpr h.cmd

theorem State.AfterReset.statusWord_eq : t.statusWord = 0 := by
  rw [State.statusWord, h.busy, h.initd, h.ill]; rfl

/-- R29, R37: both lines high are the two bits of `CSOUT`. -/
theorem State.AfterReset.csoutWord_eq : t.csoutWord = 3 := by
  rw [State.csoutWord, h.agN, h.mN]; rfl

end afterReset

/-- R37, row by row: the model's reset state takes each value the rule gives. -/
theorem State.reset_afterReset : State.reset.AfterReset where
  cmd := rfl
  seq := rfl
  busy := rfl
  initd := rfl
  ill := rfl
  agN := rfl
  mN := rfl
  mstr := rfl
  msbf := rfl
  ainc := rfl
  trace := rfl

/-- Settles O15: the reset state has the values of R37, and what the ports read then follows from those values alone. -/
theorem resetStateValues : Obligations.ResetStateValues :=
  have h := State.reset_afterReset
  ⟨h, h.cmdReady_eq, h.statusWord_eq, h.csoutWord_eq⟩

end Sys2Proof.Machine
end

section
/-! PROOFS. The family of 30_encoding.md: what each major opcode can be, and what a step does with an illegal word. -/

namespace Sys2Proof

open Sys2Proof.Machine

/-! One inversion per format: the commands it can give. -/

theorem decodeZ_eq_some {w : Word} {i : Instr} (h : decodeZ w = some i) : i = .init := by
  obtain ⟨-, hi⟩ := Option.ite_none_right_eq_some.mp h
  exact (Option.some.inj hi).symm

theorem decodeD_eq_some {command : Device → Instr} {w : Word} {i : Instr} (h : decodeD command w = some i) :
    ∃ d, i = command d := by
  obtain ⟨-, hi⟩ := Option.ite_none_right_eq_some.mp h
  exact ⟨_, (Option.some.inj hi).symm⟩

theorem decodeB_eq_some {w : Word} {i : Instr} (h : decodeB w = some i) : ∃ b, i = .xfer b := by
  obtain ⟨-, hi⟩ := Option.ite_none_right_eq_some.mp h
  exact ⟨_, (Option.some.inj hi).symm⟩

/-- R111, R114: `RW` separates the two commands of format R. -/
theorem decodeR_eq_some {w : Word} {i : Instr} (h : decodeR w = some i) :
    (slice w 15 15 = 0 ∧ ∃ d a v, i = .wrreg d a v) ∨ (slice w 15 15 = 1 ∧ ∃ d a bc, i = .rdreg d a bc) := by
  have hlt : slice w 15 15 < 2 := slice_lt w 15 15
  obtain ⟨-, h⟩ := Option.ite_none_left_eq_some.mp h
  by_cases hrw : slice w 15 15 = 0
  · rw [if_pos hrw] at h
    obtain ⟨-, hi⟩ := Option.ite_none_right_eq_some.mp h
    exact .inl ⟨hrw, _, _, _, (Option.some.inj hi).symm⟩
  · rw [if_neg hrw] at h
    obtain ⟨-, hi⟩ := Option.ite_none_right_eq_some.mp h
    exact .inr ⟨by omega, _, _, _, (Option.some.inj hi).symm⟩

/-- R115: `FN` 0 to 9 are the rows of the accessor table, `FN` 10 is RDID. -/
theorem decodeA_eq_some {w : Word} {i : Instr} (h : decodeA w = some i) :
    (acctab i).isSome ∨ ∃ d, i = .rdid d := by
  unfold decodeA at h
  split at h
  · cases h
  · split at h
    · exact .inr ⟨_, (Option.some.inj h).symm⟩
    · split at h
      · cases h
      · left
        split at h <;> cases h <;> rfl

/-- R114, row by row: the major opcode of a legal word and the commands it can be. -/
theorem decode_op_cases {w : Word} {i : Instr} (h : decode w = some i) :
    (slice w 31 28 = 1 ∧ i = .init) ∨ (slice w 31 28 = 2 ∧ ∃ d, i = .sel d) ∨
    (slice w 31 28 = 3 ∧ ∃ d, i = .desel d) ∨ (slice w 31 28 = 4 ∧ ∃ b, i = .xfer b) ∨
    (slice w 31 28 = 5 ∧ ((slice w 15 15 = 0 ∧ ∃ d a v, i = .wrreg d a v) ∨
      (slice w 15 15 = 1 ∧ ∃ d a bc, i = .rdreg d a bc))) ∨
    (slice w 31 28 = 6 ∧ ((acctab i).isSome ∨ ∃ d, i = .rdid d)) := by
  unfold decode at h
  split at h
  next hop => exact .inl ⟨hop, decodeZ_eq_some h⟩
  next hop => exact .inr (.inl ⟨hop, decodeD_eq_some h⟩)
  next hop => exact .inr (.inr (.inl ⟨hop, decodeD_eq_some h⟩))
  next hop => exact .inr (.inr (.inr (.inl ⟨hop, decodeB_eq_some h⟩)))
  next hop => exact .inr (.inr (.inr (.inr (.inl ⟨hop, decodeR_eq_some h⟩))))
  next hop => exact .inr (.inr (.inr (.inr (.inr ⟨hop, decodeA_eq_some h⟩))))
  next => cases h

/-- R114: a legal word has an `OP` from 1 to 6. -/
theorem op_mem_of_decode {w : Word} {i : Instr} (h : decode w = some i) : 1 ≤ slice w 31 28 ∧ slice w 31 28 ≤ 6 := by
  obtain ⟨hop, -⟩ | ⟨hop, -⟩ | ⟨hop, -⟩ | ⟨hop, -⟩ | ⟨hop, -⟩ | ⟨hop, -⟩ := decode_op_cases h <;> omega

/-- R114, R117: `OP` = 0 and `OP` = 7 to 15 are no command. -/
theorem decode_eq_none_of_op {w : Word} (h : ¬ (1 ≤ slice w 31 28 ∧ slice w 31 28 ≤ 6)) : decode w = none :=
  Option.eq_none_iff_forall_ne_some.mpr fun _ hi => h (op_mem_of_decode hi)

/-- R114: a scaled accessor is none of the commands without a row in the accessor table. -/
theorem ne_of_acctab_isSome {i j : Instr} (h : (acctab i).isSome) (hj : acctab j = none) : i ≠ j := by
  rintro rfl
  simp [hj] at h

/-- Settles O5: the cases of `decode_op_cases` differ in `OP`, or in `RW` where `OP` = 5, and name different commands, so
each row of R114 holds in both directions. -/
theorem majorOpcodeMap : Obligations.MajorOpcodeMap := by
  refine ⟨fun w h => decode_eq_none_of_op (by omega), fun w h => decode_eq_none_of_op (by omega), fun w i h => ?_⟩
  obtain ⟨hop, rfl⟩ | ⟨hop, d, rfl⟩ | ⟨hop, d, rfl⟩ | ⟨hop, b, rfl⟩ |
    ⟨hop, ⟨hrw, d, a, v, rfl⟩ | ⟨hrw, d, a, bc, rfl⟩⟩ | ⟨hop, hacc | ⟨d, rfl⟩⟩ := decode_op_cases h
  · simp [hop, acctab]
  · simp [hop, acctab]
  · simp [hop, acctab]
  · simp [hop, acctab]
  · simp [hop, hrw, acctab]
  · simp [hop, hrw, acctab]
  · have hinit : i ≠ .init := ne_of_acctab_isSome hacc rfl
    have hsel : ∀ d, i ≠ .sel d := fun _ => ne_of_acctab_isSome hacc rfl
    have hdesel : ∀ d, i ≠ .desel d := fun _ => ne_of_acctab_isSome hacc rfl
    have hxfer : ∀ b, i ≠ .xfer b := fun _ => ne_of_acctab_isSome hacc rfl
    have hwrreg : ∀ d a v, i ≠ .wrreg d a v := fun _ _ _ => ne_of_acctab_isSome hacc rfl
    have hrdreg : ∀ d a bc, i ≠ .rdreg d a bc := fun _ _ _ => ne_of_acctab_isSome hacc rfl
    simp [hop, hacc, hinit, hsel, hdesel, hxfer, hwrreg, hrdreg]
  · simp [hop]

end Sys2Proof

namespace Sys2Proof.Machine

/-- R117: an idle block with no reset asserted takes an illegal word in one step. -/
theorem step_of_illegal {s : State} {w : Word} {rest : List Word} (hr : s.resetNow = false) (hc : s.cmd = none)
    (hh : s.host = w :: rest) (hd : decode w = none) : step s = .next (s.take rest).takeIllegal := by
  simp [step, hr, hc, hh, hd]

/-- R28, R117: the fields that taking an illegal word writes; it keeps all others. -/
theorem State.takeIllegal_take (s : State) (rest : List Word) :
    (s.take rest).takeIllegal =
      { s with
        ill := true, strobe := true, hasValue := false, host := rest, hostFault := true, resets := tickBy 1 s.resets } :=
  rfl

/-- Settles O10: the step is the taking of the illegal word, whose whole effect `State.takeIllegal_take` lists. -/
theorem illegalWordOnlySetsIll : Obligations.IllegalWordOnlySetsIll :=
  fun s _ rest hr hc hh hd => (step_of_illegal hr hc hh hd).trans (congrArg _ (s.takeIllegal_take rest))

end Sys2Proof.Machine
end

section
/-! PROOFS. The family of 40_transport.md: what SEL and DESEL do to the line they name, and the two ends of XFER. -/

namespace Sys2Proof.Machine

variable {s t : State}

theorem runSteps_nil (s : State) (r : Reply) : s.runSteps r [] = s.complete r := rfl

/-- A command ends at a bus step that stops. -/
theorem runSteps_cons_stopped {b : BusStep} {bs : List BusStep} {r : Reply} (h : s.busStep b = .stopped t) :
    s.runSteps r (b :: bs) = t := by
  rw [State.runSteps, h]

/-- A bus step whose transfer never completes (60_exceptions.md R226). -/
theorem busStep_xfer_stopped {x : TxByte} {as : List Assign} {e : Env} (h : s.resetNow = false)
    (ha : s.env.answer s.lines (x.value s) s.draws = ⟨none, e⟩) :
    s.busStep ⟨.xfer x, as⟩ = .stopped { s.startShift (x.value s) with env := e } := by
  simp [State.busStep, h, State.perform, transfer_stopped s ha]

/-- R143, R144: `RXBUF` and the event hold the byte the environment sent. -/
theorem endShift_eq (s : State) (b rx : Byte) :
    s.endShift b rx = { s with rxbuf := rx, busy := false, trace := s.trace ++ [.xfer b rx] } := by
  rw [State.endShift, sampleBits_wireBits]

/-- An accepted command whose plan is one bus step that runs is that bus step and the completion. -/
theorem exec_of_single_running {i : Instr} {b : BusStep} {r : Reply} (hp : planOf i = ⟨[], [b], r⟩) (h : s.Accepts i)
    (hb : (s.accept i ⟨[], [b], r⟩).busStep b = .running t) : exec i s = .next (t.complete r) := by
  rw [exec_of_accepts s h, hp, runSteps_cons_running _ _ hb, runSteps_nil]

/-- An accepted command whose plan is one bus step that stops ends there. -/
theorem exec_of_single_stopped {i : Instr} {b : BusStep} {r : Reply} (hp : planOf i = ⟨[], [b], r⟩) (h : s.Accepts i)
    (hb : (s.accept i ⟨[], [b], r⟩).busStep b = .stopped t) : exec i s = .next t := by
  rw [exec_of_accepts s h, hp, runSteps_cons_stopped hb]

/-- No reset comes before the first bus step of a command accepted in a quiet state. -/
theorem resetNow_accept {n : Nat} (hq : s.quietFor (n + 1) = true) (i : Instr) (p : Plan) :
    (s.accept i p).resetNow = false :=
  (accept_resetNow s i p).trans (resetNow_of_quiet s hq)

/-- R141, R142: a command that only drives a line changes that line, appends its event and completes without a value. -/
theorem exec_of_drivePlan {i : Instr} {d : Device} {v : Level} (hp : planOf i = ⟨[], [⟨.cs d v, []⟩], .noValue⟩)
    (h : s.Accepts i) (hq : s.quietFor 1 = true) : exec i s = .next (Expect.finished 1 false (Expect.driven d v s)) :=
  exec_of_single_running hp h (busStep_cs _ d v [] (resetNow_accept hq _ _))

/-- R143: the environment answers `rx`. -/
theorem exec_xfer_answered {b rx : Byte} {e : Env} (h : s.Accepts (.xfer b)) (hq : s.quietFor 1 = true)
    (ha : s.env.answer s.lines b s.draws = ⟨some rx, e⟩) :
    exec (.xfer b) s = .next (Expect.finished 1 true
      { s with
        txbuf := b, rxbuf := rx, busy := false, res := rx.setWidth 16, trace := s.trace ++ [.xfer b rx], env := e,
        draws := s.draws + 1 }) := by
  have hb := busStep_xfer (s.accept (.xfer b) (planXfer b)) (x := .given b) (as := []) (resetNow_accept hq _ _) ha
  rw [endShift_eq] at hb
  exact exec_of_single_running rfl h hb

/-- R143, R226: the environment never answers, so the block stays in its shift. -/
theorem exec_xfer_hangs {b : Byte} {e : Env} (h : s.Accepts (.xfer b)) (hq : s.quietFor 1 = true)
    (ha : s.env.answer s.lines b s.draws = ⟨none, e⟩) :
    exec (.xfer b) s = .next
      { s with
        txbuf := b, busy := true, seq := 0, cmd := some (.xfer b), strobe := false, hasValue := false, env := e,
        draws := s.draws + 1 } :=
  exec_of_single_stopped rfl h (busStep_xfer_stopped (x := .given b) (resetNow_accept hq _ _) ha)

/-- R110: the low byte of the word of XFER lies below its major opcode. -/
theorem encode_xfer (b : Byte) : encode (.xfer b) = 0x40000000 ||| b.setWidth 32 := by
  have hb : b.toNat < 2 ^ 28 := by omega
  have hor : 2 ^ 28 * 4 + b.toNat = 2 ^ 28 * 4 ||| b.toNat := Nat.two_pow_add_eq_or_of_lt hb 4
  apply BitVec.eq_of_toNat_eq
  rw [encode, wordOf_toNat (by omega) (by omega) (by omega) (by omega) (by omega) b.isLt, BitVec.toNat_or,
    BitVec.toNat_setWidth_of_le (by omega)]
  exact hor

/-- Settles O18: the one bus step of SEL drives its line low. -/
theorem selAssertsOneLine : Obligations.SelAssertsOneLine :=
  ⟨by decide, by decide, fun _ _ h hq => exec_of_drivePlan rfl h hq⟩

/-- Settles O19: the one bus step of DESEL drives its line high. -/
theorem deselDeassertsOneLine : Obligations.DeselDeassertsOneLine :=
  ⟨by decide, by decide, fun _ _ h hq => exec_of_drivePlan rfl h hq⟩

/-- Settles O20: the one transfer of XFER is answered or it never ends. -/
theorem xferExchangesOneByte : Obligations.XferExchangesOneByte :=
  ⟨encode_xfer, fun _ _ _ _ h hq ha => exec_xfer_answered h hq ha, fun _ _ _ h hq ha => exec_xfer_hangs h hq ha⟩

end Sys2Proof.Machine
end

section
/-! PROOFS. The family of 41_register_protocol.md: the words of WRREG and RDREG, their frames with every transfer complete,
and what a frame leaves whose transfer never completes. -/

namespace Sys2Proof.Machine

variable {s t u : State} {d : Device} {a : Addr} {e : Env}

/-! The words. -/

/-- R107: the fields of a word do not overlap, so the address and the low byte are set in it by OR. -/
theorem wordOf_eq_or {op bcm1 dev rw : Nat} (hop : op < 16) (hbcm1 : bcm1 < 2) (hdev : dev < 2) (hrw : rw < 2)
    (a : Addr) (v : Byte) :
    wordOf op bcm1 dev rw a.toNat v.toNat =
      wordOf op bcm1 dev rw 0 0 ||| (a.setWidth 32 <<< 8) ||| v.setWidth 32 := by
  have ha := a.isLt
  have hv := v.isLt
  have hhead : op * 2 ^ 28 + bcm1 * 2 ^ 17 + dev * 2 ^ 16 + rw * 2 ^ 15 =
      2 ^ 15 * (op * 2 ^ 13 + bcm1 * 2 ^ 2 + dev * 2 + rw) := by omega
  have hshift : (a.setWidth 32 <<< 8).toNat = 2 ^ 8 * a.toNat := by
    rw [BitVec.toNat_shiftLeft, BitVec.toNat_setWidth, Nat.shiftLeft_eq]
    omega
  apply BitVec.eq_of_toNat_eq
  rw [wordOf_toNat hop hbcm1 hdev hrw ha hv, BitVec.toNat_or, BitVec.toNat_or,
    wordOf_toNat hop hbcm1 hdev hrw (by omega) (by omega), hshift, BitVec.toNat_setWidth_of_le (by omega), Nat.or_assoc,
    ← Nat.two_pow_add_eq_or_of_lt hv, hhead, Nat.add_zero, Nat.zero_mul, Nat.add_zero,
    ← Nat.two_pow_add_eq_or_of_lt (by omega)]
  omega

/-- R111, R160: format R with `RW` = 0 and `BCM1` = 0. -/
theorem encode_wrreg (d : Device) (a : Addr) (v : Byte) :
    encode (.wrreg d a v) = wordOf 5 0 d.code 0 0 0 ||| (a.setWidth 32 <<< 8) ||| v.setWidth 32 :=
  wordOf_eq_or (by omega) (by omega) d.code_lt_two (by omega) a v

/-- R111, R161: format R with `RW` = 1 and `DATA` = 0. -/
theorem encode_rdreg {bc : Nat} (hbc : bc ≤ 2) (d : Device) (a : Addr) :
    encode (.rdreg d a bc) = wordOf 5 (bc - 1) d.code 1 0 0 ||| (a.setWidth 32 <<< 8) :=
  (wordOf_eq_or (by omega) (by omega) d.code_lt_two (by omega) a 0).trans BitVec.or_zero

/-! The frames with every transfer complete. -/

/-- R160: the descriptor WRREG loads at its acceptance. -/
@[simp] theorem accept_planWrreg_td (s : State) (i : Instr) (d : Device) (a : Addr) (v : Byte) :
    (s.accept i (planWrreg d a v)).td = ⟨d, false, s.ainc, false, a, v⟩ := rfl

/-- R161: the descriptor RDREG loads at its acceptance. -/
@[simp] theorem accept_planRdreg_td (s : State) (i : Instr) (d : Device) (a : Addr) (bc : Nat) :
    (s.accept i (planRdreg d a bc)).td = ⟨d, bc == 2, s.ainc, true, a, dummy⟩ := rfl

/-- R160: WRREG where the environment answers both transfers. -/
theorem exec_wrreg_answered {v x y : Byte} (h : s.Accepts (.wrreg d a v)) (hq : s.quietFor 4 = true)
    (ha : s.frameAnswers d [writeByte a, v] = some ([x, y], e)) :
    exec (.wrreg d a v) s = .next (Expect.written d a v x y e s) := by
  have hrun := runSteps_writeFrame (s.accept (.wrreg d a v) (planWrreg d a v)) d [] [] .noValue (x := x) (y := y)
    (e := e) (by simpa using hq) (by simpa using ha)
  rw [accept_planWrreg_td, addrByte_write, dataByte_mk] at hrun
  exact (exec_of_accepts s h).trans (congrArg _ hrun)

/-- R161: RDREG of one byte where the environment answers both transfers. -/
theorem exec_rdreg_one_answered {x lo : Byte} (h : s.Accepts (.rdreg d a 1)) (hq : s.quietFor 4 = true)
    (ha : s.frameAnswers d [readByte a, dummy] = some ([x, lo], e)) :
    exec (.rdreg d a 1) s = .next (Expect.readOne d a x lo e s) := by
  have hrun := runSteps_readFrame_one (s.accept (.rdreg d a 1) (planRdreg d a 1)) d .raw (x := x) (lo := lo)
    (e := e) (by simpa using hq) (by simpa using ha)
  rw [accept_planRdreg_td, addrByte_read, dataByte_mk] at hrun
  exact (exec_of_accepts s h).trans (congrArg _ hrun)

/-- R161: RDREG of two bytes where the environment answers all three transfers. -/
theorem exec_rdreg_two_answered {x lo hi : Byte} (h : s.Accepts (.rdreg d a 2)) (hq : s.quietFor 5 = true)
    (ha : s.frameAnswers d [readByte a, dummy, dummy] = some ([x, lo, hi], e)) :
    exec (.rdreg d a 2) s = .next (Expect.readTwo d a x lo hi (assemble 2 lo hi) e s) := by
  have hrun := runSteps_readFrame_two (s.accept (.rdreg d a 2) (planRdreg d a 2)) d .raw (x := x) (lo := lo) (hi := hi)
    (e := e) (by simpa using hq) (by simpa using ha)
  rw [accept_planRdreg_td, addrByte_read, dataByte_mk] at hrun
  exact (exec_of_accepts s h).trans (congrArg _ hrun)

/-! The frames in which a transfer never completes. -/

/-- A run of transfers that does not complete: if its first transfer completes, the rest does not. -/
theorem answers_cons_eq_none_iff {l : Lines} {tx : Byte} {txs : List Byte} {n : Nat} :
    e.answers l (tx :: txs) n = none ↔
      ∀ rx e', e.answer l tx n = ⟨some rx, e'⟩ → e'.answers l txs (n + 1) = none := by
  rw [Env.answers]
  rcases e.answer l tx n with ⟨_ | rx, e'⟩
  · simp
  · cases h : e'.answers l txs (n + 1) <;> simp [h]

/-- A single transfer that does not complete. -/
theorem answer_of_answers_singleton {l : Lines} {tx : Byte} {n : Nat} (h : e.answers l [tx] n = none) :
    ∃ e', e.answer l tx n = ⟨none, e'⟩ := by
  rcases ha : e.answer l tx n with ⟨_ | rx, e'⟩
  · exact ⟨e', rfl⟩
  · cases answers_cons_eq_none_iff.mp h rx e' ha

/-- A frame on `d` that had come to `s` is stuck in `t` (R160 (e), R161 (f)): the command stays, the line is low, `RES` is
as it was, and `RDXBUF` holds the stage `rdx`. -/
structure StuckInFrame (d : Device) (rdx : Half) (s t : State) : Prop where
  cmd : t.cmd = s.cmd
  line : t.line d = .low
  rdxbuf : t.rdxbuf = rdx
  res : t.res = s.res

/-- The steps of a frame before it sticks leave `CMD` and `RES`. -/
theorem StuckInFrame.of_later {rdx : Half} (h : StuckInFrame d rdx t u) (hcmd : t.cmd = s.cmd) (hres : t.res = s.res) :
    StuckInFrame d rdx s u :=
  ⟨h.cmd.trans hcmd, h.line, h.rdxbuf, h.res.trans hres⟩

/-- The state after a completed transfer of `b`, answered `rx`, and its bus step's count. -/
def State.exchanged (b rx : Byte) (e : Env) (s : State) : State :=
  { (s.startShift b).endShift b rx with env := e }.countStep

theorem busStep_exchanged {x : TxByte} {as : List Assign} {rx : Byte} (hr : s.resetNow = false)
    (ha : s.env.answer s.lines (x.value s) s.draws = ⟨some rx, e⟩) :
    s.busStep ⟨.xfer x, as⟩ = .running ((s.exchanged (x.value s) rx e).assigns as) :=
  busStep_xfer s hr ha

theorem quietFor_exchanged {n : Nat} {b rx : Byte} (hq : s.quietFor (n + 1) = true) :
    (s.exchanged b rx e).quietFor n = true :=
  quietFor_of_resets s _ hq rfl

/-- R29: the line a bus step drives has the level it was driven to. -/
theorem line_csDrive (s : State) (d : Device) (v : Level) : (s.csDrive d v).line d = v := by
  cases d <;> rfl

section stuck

variable (r : Reply) (as : List Assign) (bs : List BusStep)

/-- R226: with the line of `d` low, a frame whose next transfer never completes is stuck. -/
theorem runSteps_stuck_first {x : TxByte} (hr : s.resetNow = false) (hl : s.line d = .low)
    (ha : s.env.answer s.lines (x.value s) s.draws = ⟨none, e⟩) :
    StuckInFrame d s.rdxbuf s (s.runSteps r (⟨.xfer x, as⟩ :: bs)) := by
  rw [runSteps_cons_stopped (busStep_xfer_stopped hr ha)]
  exact ⟨rfl, by cases d <;> exact hl, rfl, rfl⟩

/-- With the line of `d` low, a frame of which the address byte or the first data byte never completes is stuck. -/
theorem runSteps_stuck_first_two (hq : s.quietFor 2 = true) (hl : s.line d = .low)
    (ha : s.env.answers s.lines [s.td.addrByte, s.td.dataByte] s.draws = none) :
    StuckInFrame d s.rdxbuf s (s.runSteps r (⟨.xfer .addrByte, []⟩ :: ⟨.xfer .dataByte, as⟩ :: bs)) := by
  have hr := resetNow_of_quiet s hq
  rcases h1 : s.env.answer s.lines s.td.addrByte s.draws with ⟨_ | rx, e⟩
  · exact runSteps_stuck_first r _ _ (x := .addrByte) hr hl h1
  · rw [runSteps_cons_running s _ (busStep_exchanged (x := .addrByte) hr h1)]
    obtain ⟨e', h2⟩ := answer_of_answers_singleton (answers_cons_eq_none_iff.mp ha rx e h1)
    exact (runSteps_stuck_first r as bs (x := .dataByte) (s := s.exchanged s.td.addrByte rx e) (d := d)
      (resetNow_of_quiet _ (quietFor_exchanged hq)) (by cases d <;> exact hl) h2).of_later rfl rfl

/-- R160 (e), R161 (f): a frame on `d` of which the address byte or the first data byte never completes is stuck, with
`RDXBUF` as it was. -/
theorem runSteps_frame_stuck (hq : s.quietFor 3 = true)
    (ha : s.frameAnswers d [s.td.addrByte, s.td.dataByte] = none) :
    StuckInFrame d s.rdxbuf s
      (s.runSteps r (⟨.cs d .low, []⟩ :: ⟨.xfer .addrByte, []⟩ :: ⟨.xfer .dataByte, as⟩ :: bs)) := by
  rw [runSteps_cons_running s _ (busStep_cs s d .low [] (resetNow_of_quiet s hq))]
  exact (runSteps_stuck_first_two r as bs (s := (s.csDrive d .low).countStep) (quietFor_of_resets s _ hq rfl)
    (line_csDrive s d .low) ha).of_later rfl rfl

/-- R161 (f): a 2-byte read of which the second data byte alone never completes is stuck, with the first data byte in
`RDXBUF`. -/
theorem runSteps_readFrame_two_stuck {x lo : Byte} (hq : s.quietFor 4 = true)
    (ha : s.frameAnswers d [s.td.addrByte, s.td.dataByte] = some ([x, lo], e))
    (hstuck : s.frameAnswers d [s.td.addrByte, s.td.dataByte, dummy] = none) :
    StuckInFrame d (lowStage lo) s (s.runSteps r (readFrame d 2)) := by
  obtain ⟨e1, h1, ha⟩ := answers_cons ha
  obtain ⟨e2, h2, -⟩ := answers_cons ha
  have hrest := answers_cons_eq_none_iff.mp (answers_cons_eq_none_iff.mp hstuck x e1 h1) lo e2 h2
  obtain ⟨e3, h3⟩ := answer_of_answers_singleton hrest
  let s1 := (s.csDrive d .low).countStep
  let s2 := s1.exchanged s.td.addrByte x e1
  let s3 := (s2.exchanged s.td.dataByte lo e2).assign .rdxLow
  have hq1 : s1.quietFor 3 = true := quietFor_of_resets s s1 hq rfl
  have hq2 : s2.quietFor 2 = true := quietFor_exchanged hq1
  have hq3 : s3.quietFor 1 = true := quietFor_exchanged hq2
  have hrdx : s3.rdxbuf = lowStage lo := congrArg lowStage (sampleBits_wireBits lo)
  have hlast := runSteps_stuck_first r [.rdxHigh] [⟨.cs d .high, []⟩] (s := s3) (x := .given dummy)
    (resetNow_of_quiet s3 hq3) (line_csDrive s d .low) h3
  rw [hrdx] at hlast
  rw [readFrame, if_pos rfl, runSteps_cons_running s s1 (busStep_cs s d .low [] (resetNow_of_quiet s hq)),
    runSteps_cons_running s1 s2 (busStep_exchanged (x := .addrByte) (resetNow_of_quiet s1 hq1) h1),
    runSteps_cons_running s2 s3 (busStep_exchanged (x := .dataByte) (as := [.rdxLow]) (resetNow_of_quiet s2 hq2) h2)]
  exact hlast.of_later rfl rfl

end stuck

/-- R161: whatever the byte count, a read frame begins with the fall of the line, the address byte and the first data
byte. -/
theorem readFrame_eq_cons (d : Device) (bc : Nat) : ∃ bs, readFrame d bc =
    ⟨.cs d .low, []⟩ :: ⟨.xfer .addrByte, []⟩ :: ⟨.xfer .dataByte, [.rdxLow]⟩ :: bs := by
  unfold readFrame
  split
  · exact ⟨_, rfl⟩
  · exact ⟨_, rfl⟩

/-- An accepted command whose plan is stuck in a frame: the command stays in `CMD`. -/
theorem exec_of_stuck {i : Instr} {rdx : Half} (h : s.Accepts i)
    (hs : StuckInFrame d rdx (s.accept i (planOf i))
      ((s.accept i (planOf i)).runSteps (planOf i).reply (planOf i).steps)) :
    ∃ t, exec i s = .next t ∧ t.cmd = some i ∧ t.line d = .low ∧ t.rdxbuf = rdx ∧ t.res = s.res :=
  ⟨_, exec_of_accepts s h, hs.cmd.trans (accept_cmd s i _), hs.line, hs.rdxbuf, hs.res.trans (accept_res s i _)⟩

/-- R160 (e): WRREG where one of its transfers never completes. -/
theorem exec_wrreg_stuck {v : Byte} (h : s.Accepts (.wrreg d a v)) (hq : s.quietFor 3 = true)
    (ha : s.frameAnswers d [writeByte a, v] = none) :
    ∃ t, exec (.wrreg d a v) s = .next t ∧ t.cmd = some (.wrreg d a v) ∧ t.line d = .low ∧ t.rdxbuf = s.rdxbuf ∧
      t.res = s.res :=
  exec_of_stuck h (runSteps_frame_stuck (s := s.accept (.wrreg d a v) (planWrreg d a v)) _ _ _ (by simpa using hq)
    (by simpa using ha))

/-- R161 (f): RDREG where the transfer of the address or of the first data byte never completes. -/
theorem exec_rdreg_stuck_first_two {bc : Nat} (h : s.Accepts (.rdreg d a bc)) (hq : s.quietFor 3 = true)
    (ha : s.frameAnswers d [readByte a, dummy] = none) :
    ∃ t, exec (.rdreg d a bc) s = .next t ∧ t.cmd = some (.rdreg d a bc) ∧ t.line d = .low ∧ t.rdxbuf = s.rdxbuf ∧
      t.res = s.res := by
  obtain ⟨bs, hbs⟩ := readFrame_eq_cons d bc
  have hstuck := runSteps_frame_stuck (s := s.accept (.rdreg d a bc) (planRdreg d a bc)) .raw [.rdxLow] bs
    (by simpa using hq) (by simpa using ha)
  rw [← hbs] at hstuck
  exact exec_of_stuck h hstuck

/-- R161 (f): RDREG of two bytes where the transfer of the second one never completes. -/
theorem exec_rdreg_stuck_third {x lo : Byte} (h : s.Accepts (.rdreg d a 2)) (hq : s.quietFor 4 = true)
    (ha : s.frameAnswers d [readByte a, dummy] = some ([x, lo], e))
    (hstuck : s.frameAnswers d [readByte a, dummy, dummy] = none) :
    ∃ t, exec (.rdreg d a 2) s = .next t ∧ t.cmd = some (.rdreg d a 2) ∧ t.line d = .low ∧ t.rdxbuf = lowStage lo ∧
      t.res = s.res :=
  exec_of_stuck h (runSteps_readFrame_two_stuck (s := s.accept (.rdreg d a 2) (planRdreg d a 2)) _ (x := x) (lo := lo)
    (e := e) (by simpa using hq) (by simpa using ha) (by simpa using hstuck))

/-- Settles O23: the frame of WRREG is answered in full, or it is stuck in one of its two transfers. -/
theorem wrregWritesOneFrame : Obligations.WrregWritesOneFrame :=
  ⟨encode_wrreg .ag, encode_wrreg .m, fun _ _ _ _ _ _ _ h hq ha => exec_wrreg_answered h hq ha,
    fun _ _ _ s h hq ha => exec_wrreg_stuck h (quietFor_mono s hq (by omega)) ha⟩

/-- Settles O24: the frame of RDREG is answered in full, or it is stuck before `RDXBUF` is written, or between the two
stages of `RDXBUF`. -/
theorem rdregReadsOneOrTwoBytes : Obligations.RdregReadsOneOrTwoBytes :=
  ⟨fun a => ⟨encode_rdreg (by omega) .ag a, encode_rdreg (by omega) .m a, encode_rdreg (by omega) .ag a,
      encode_rdreg (by omega) .m a⟩,
    fun _ _ _ _ _ _ h hq ha => exec_rdreg_one_answered h hq ha,
    fun _ _ _ _ _ _ _ h hq ha => exec_rdreg_two_answered h hq ha,
    fun _ _ _ s h hq ha => exec_rdreg_stuck_first_two h (quietFor_mono s hq (by omega)) ha,
    fun _ _ _ _ s _ h hq ha hstuck => exec_rdreg_stuck_third h (quietFor_mono s hq (by omega)) ha hstuck⟩

end Sys2Proof.Machine
end

section
/-! PROOFS. The family of 42_accessors_scaling.md: the one read behind each accessor, the division of the scaling engine,
and the range of its result over a range of raw values. -/

namespace Sys2Proof.Machine

/-! The reads. -/

section reads

variable {i : Instr} {d : Device} {a : Addr} {k : ScaleKind}

/-- R161: the descriptor a scaled accessor loads at its acceptance. -/
@[simp] theorem accept_scaledRead_td (s : State) (i : Instr) (d : Device) (a : Addr) (k : ScaleKind) :
    (s.accept i (scaledRead d a k)).td = ⟨d, true, s.ainc, true, a, dummy⟩ := rfl

/-- R161, R199: a command whose plan is a scaled read makes the 2-byte read and returns it scaled. -/
theorem readsScaled_of_plan (hp : planOf i = scaledRead d a k) : Expect.ReadsScaled i d a k := by
  intro s x lo hi e h hq (ha : s.frameAnswers d [readByte a, dummy, dummy] = _)
  have hrun := runSteps_readFrame_two (s.accept i (scaledRead d a k)) d (.scaled k) (x := x) (lo := lo) (hi := hi)
    (e := e) (by simpa using hq) (by simpa using ha)
  rw [accept_scaledRead_td, addrByte_read, dataByte_mk] at hrun
  rw [exec_of_accepts s h, hp]
  exact congrArg _ hrun

/-- R161: a command whose plan is that of a 1-byte RDREG makes that read and returns it as it is. -/
theorem exec_of_readOnePlan {s : State} {x lo : Byte} {e : Env} (hp : planOf i = planRdreg d a 1) (h : s.Accepts i)
    (hq : s.quietFor 4 = true) (ha : s.frameAnswers d [readByte a, dummy] = some ([x, lo], e)) :
    exec i s = .next (Expect.readOne d a x lo e s) := by
  have hrun := runSteps_readFrame_one (s.accept i (planRdreg d a 1)) d .raw (x := x) (lo := lo) (e := e)
    (by simpa using hq) (by simpa using ha)
  rw [accept_planRdreg_td, addrByte_read, dataByte_mk] at hrun
  rw [exec_of_accepts s h, hp]
  exact congrArg _ hrun

/-- R192: the response of a 1-byte read is nonnegative, its high byte being 0. -/
theorem readOne_res_toInt (d : Device) (a : Addr) (x lo : Byte) (e : Env) (s : State) :
    (Expect.readOne d a x lo e s).res.toInt = lo.toNat := by
  have hres : (Expect.readOne d a x lo e s).res.toNat = lo.toNat := BitVec.toNat_setWidth_of_le (by omega)
  rw [BitVec.toInt_eq_toNat_of_lt (by omega), hres]

end reads

/-! The division. -/

section division

variable (k : ScaleKind) (raw : Half)

theorem quotient_of_nonneg (h : 0 ≤ product k raw) : quotient k raw = product k raw / k.den :=
  Int.tdiv_eq_ediv_of_nonneg h

/-- R195: below 0 the quotient is that of the negated product, negated. -/
theorem quotient_of_nonpos (h : product k raw ≤ 0) : quotient k raw = -(-product k raw / k.den) := by
  rw [← Int.tdiv_eq_ediv_of_nonneg (Int.neg_nonneg_of_nonpos h), Int.neg_tdiv, Int.neg_neg, quotient]

theorem quotient_nonneg (h : 0 ≤ product k raw) : 0 ≤ quotient k raw := Int.tdiv_nonneg h k.den_pos.le

theorem quotient_nonpos (h : product k raw ≤ 0) : quotient k raw ≤ 0 := by
  rw [quotient_of_nonpos k raw h]
  exact Int.neg_nonpos_of_nonneg (Int.ediv_nonneg (Int.neg_nonneg_of_nonpos h) k.den_pos.le)

theorem quotient_of_product_eq_zero (h : product k raw = 0) : quotient k raw = 0 := by
  rw [quotient, h, Int.zero_tdiv]

/-- R195: the quotient is never further from zero than the exact one. -/
theorem natAbs_quotient_mul_den_le : (quotient k raw * k.den).natAbs ≤ (product k raw).natAbs := by
  rw [Int.natAbs_mul, quotient, Int.natAbs_tdiv]
  exact Nat.div_mul_le_self _ _

/-- R195: the remainder is smaller than the denominator. -/
theorem natAbs_remainder_lt : (product k raw - quotient k raw * k.den).natAbs < k.den.natAbs := by
  have hrem : product k raw - quotient k raw * k.den = (product k raw).tmod k.den := by
    rw [quotient, Int.tmod_def, Int.mul_comm]
  rw [hrem, Int.natAbs_tmod]
  exact Nat.mod_lt _ (Int.natAbs_pos.mpr k.den_pos.ne')

end division

/-! The ranges (R197): raw values from `l` to `u` scale to `lo` to `hi` where the products of `l` and `u` fall short of the
products of the quotients `lo - 1` and `hi + 1`. -/

section ranges

variable {k : ScaleKind} {raw : Half} {l u lo hi : Int}

/-- R194: the product keeps the order of the raw values. -/
theorem product_mem_Icc (h : sint16 raw ∈ Set.Icc l u) : product k raw ∈ Set.Icc (l * k.num) (u * k.num) :=
  ⟨Int.mul_le_mul_of_nonneg_right h.1 k.num_pos.le, Int.mul_le_mul_of_nonneg_right h.2 k.num_pos.le⟩

/-- R195: a product short of the quotients next to the range `lo` to `hi` has its quotient in the range. -/
theorem quotient_mem_Icc_of_product (hlo : lo ≤ 0) (hhi : 0 ≤ hi) (hl : (lo - 1) * k.den < product k raw)
    (hu : product k raw < (hi + 1) * k.den) : quotient k raw ∈ Set.Icc lo hi := by
  rcases Int.le_total 0 (product k raw) with hp | hp
  · have hq : product k raw / k.den < hi + 1 := Int.ediv_lt_of_lt_mul k.den_pos hu
    rw [← quotient_of_nonneg k raw hp] at hq
    exact ⟨hlo.trans (quotient_nonneg k raw hp), Int.lt_add_one_iff.mp hq⟩
  · have hq : -product k raw / k.den < -(lo - 1) := Int.ediv_lt_of_lt_mul k.den_pos (by rw [Int.neg_mul]; omega)
    have hdiv := quotient_of_nonpos k raw hp
    exact ⟨by omega, (quotient_nonpos k raw hp).trans hhi⟩

theorem quotient_mem_Icc (h : sint16 raw ∈ Set.Icc l u) (hlo : lo ≤ 0) (hhi : 0 ≤ hi)
    (hl : (lo - 1) * k.den < l * k.num) (hu : u * k.num < (hi + 1) * k.den) : quotient k raw ∈ Set.Icc lo hi :=
  have hp := product_mem_Icc h
  quotient_mem_Icc_of_product hlo hhi (hl.trans_le hp.1) (hp.2.trans_lt hu)

/-- R196: a quotient inside 16 bits is the result. -/
theorem scale_toInt (h : quotient k raw ∈ Set.Icc (-32768) 32767) : (scale k raw).toInt = quotient k raw :=
  BitVec.toInt_ofInt_eq_self (by omega) h.1 (Int.lt_add_one_iff.mpr h.2)

theorem scale_toInt_mem_Icc (h : quotient k raw ∈ Set.Icc lo hi) (hlo : -32768 ≤ lo) (hhi : hi ≤ 32767) :
    (scale k raw).toInt ∈ Set.Icc lo hi := by
  rwa [scale_toInt (Set.Icc_subset_Icc hlo hhi h)]

theorem scale_eq_zero (h : quotient k raw ∈ Set.Icc 0 0) : scale k raw = 0 := by
  rw [scale, Int.le_antisymm h.2 h.1]
  rfl

theorem quotient_acc_mem_Icc (raw : Half) : quotient .acc raw ∈ Set.Icc (-1998) 1998 :=
  quotient_mem_Icc (sint16_bounds raw) (by decide) (by decide) (by decide) (by decide)

theorem quotient_mag_mem_Icc (raw : Half) : quotient .mag raw ∈ Set.Icc (-4587) 4587 :=
  quotient_mem_Icc (sint16_bounds raw) (by decide) (by decide) (by decide) (by decide)

theorem quotient_tmp_mem_Icc (raw : Half) : quotient .tmp raw ∈ Set.Icc (-20480) 20479 :=
  quotient_mem_Icc (sint16_bounds raw) (by decide) (by decide) (by decide) (by decide)

theorem scale_acc_eq_zero (h : sint16 raw ∈ Set.Icc (-16) 16) : scale .acc raw = 0 :=
  scale_eq_zero (quotient_mem_Icc h (by decide) (by decide) (by decide) (by decide))

theorem scale_mag_eq_zero (h : sint16 raw ∈ Set.Icc (-7) 7) : scale .mag raw = 0 :=
  scale_eq_zero (quotient_mem_Icc h (by decide) (by decide) (by decide) (by decide))

end ranges

/-- Settles O27: each command makes the read of its row, 32768 * 61 is short of 1999 * 1000, and 16 * 61 of 1000. -/
theorem accelerationAccessors : Obligations.AccelerationAccessors :=
  ⟨by decide, by decide, by decide, readsScaled_of_plan rfl, readsScaled_of_plan rfl, readsScaled_of_plan rfl,
    fun raw => scale_toInt_mem_Icc (quotient_acc_mem_Icc raw) (by decide) (by decide),
    fun _ hl hu => scale_acc_eq_zero ⟨by omega, by omega⟩⟩

/-- Settles O29: each command makes the read of its row, 32768 * 14 is short of 4588 * 100, and 7 * 14 of 100. -/
theorem magneticFieldAccessors : Obligations.MagneticFieldAccessors :=
  ⟨by decide, by decide, by decide, readsScaled_of_plan rfl, readsScaled_of_plan rfl, readsScaled_of_plan rfl,
    fun raw => scale_toInt_mem_Icc (quotient_mag_mem_Icc raw) (by decide) (by decide),
    fun _ hl hu => scale_mag_eq_zero ⟨by omega, by omega⟩⟩

/-- Settles O30: the quotient is the product divided as it stands, and it fits 16 bits. -/
theorem temperatureAccessor : Obligations.TemperatureAccessor :=
  ⟨by decide, readsScaled_of_plan rfl,
    fun raw => scale_toInt_mem_Icc (quotient_tmp_mem_Icc raw) (by decide) (by decide),
    fun raw => scale_toInt (Set.Icc_subset_Icc (by decide) (by decide) (quotient_tmp_mem_Icc raw))⟩

/-- Settles O31: the plan of RDID is that of a 1-byte RDREG at the identity address. -/
theorem identityAccessor : Obligations.IdentityAccessor :=
  ⟨by decide, by decide, rfl, rfl, fun d x id s e h hq ha =>
    ⟨exec_of_readOnePlan (a := identityAddr) rfl h hq ha, readOne_res_toInt d identityAddr x id e s⟩⟩

/-- Settles O33: the division by a positive denominator is the floor of the absolute values, with the sign of the
product. -/
theorem divisionTruncatesTowardZero : Obligations.DivisionTruncatesTowardZero :=
  ⟨rfl, rfl, rfl, rfl,
    fun k raw => ⟨fun h => quotient_nonneg k raw h.le, fun h => quotient_nonpos k raw h.le,
      quotient_of_product_eq_zero k raw⟩,
    fun k raw => ⟨quotient_of_nonneg k raw, fun h => quotient_of_nonpos k raw h.le, natAbs_quotient_mul_den_le k raw,
      natAbs_remainder_lt k raw⟩,
    fun k p => Int.neg_tdiv p k.den, by decide, by decide⟩

end Sys2Proof.Machine
end

section
/-! PROOFS. 30_encoding.md: the encoder and the decoder are each other's inverse, and the opcode table agrees with both.
-/

namespace Sys2Proof

open Sys2Proof.Machine Sys2Proof.Laws

/-! The decoder after the encoder. -/

/-- R110: `BYTE` is the whole low byte. -/
theorem decode_encode_xfer (b : Byte) : decode (encode (.xfer b)) = some (.xfer b) := by
  have hb := b.isLt
  obtain ⟨hop, hhi, hbcm1, hdev, hrw, haddr, hlow⟩ := slices_wordOf (op := 4) (bcm1 := 0) (dev := 0) (rw := 0)
    (addr := 0) (low := b.toNat) (by omega) (by omega) (by omega) (by omega) (by omega) hb
  obtain ⟨-, -, hmbz, -, -, -⟩ := slices_mbz (encode (.xfer b))
  simp_all [decode, decodeB, encode]

/-- R111, R116: a write has `BCM1` = 0. -/
theorem decode_encode_wrreg (d : Device) (a : Addr) (v : Byte) :
    decode (encode (.wrreg d a v)) = some (.wrreg d a v) := by
  obtain ⟨hop, hhi, hbcm1, hdev, hrw, haddr, hlow⟩ := slices_wordOf (op := 5) (bcm1 := 0) (dev := d.code) (rw := 0)
    (addr := a.toNat) (low := v.toNat) (by omega) (by omega) d.code_lt_two (by omega) a.isLt v.isLt
  simp [decode, decodeR, encode, hop, hhi, hbcm1, hdev, hrw, haddr, hlow]

/-- R111, R116: a read has `DATA` = 0, and `BCM1` is the byte count minus one. -/
theorem decode_encode_rdreg {bc : Nat} (hbc : LegalByteCount bc) (d : Device) (a : Addr) :
    decode (encode (.rdreg d a bc)) = some (.rdreg d a bc) := by
  obtain ⟨hop, hhi, hbcm1, hdev, hrw, haddr, hlow⟩ := slices_wordOf (op := 5) (bcm1 := bc - 1) (dev := d.code)
    (rw := 1) (addr := a.toNat) (low := 0) (by omega) (by omega) d.code_lt_two (by omega) a.isLt (by omega)
  have hcount : bc - 1 + 1 = bc := by omega
  simp [decode, decodeR, encode, hop, hhi, hbcm1, hdev, hrw, haddr, hlow, hcount]

/-- R107 to R116: the commands whose word is one or two words are decoded as they stand, the others by their fields. -/
theorem decode_encode {i : Instr} (hw : i.WellFormed) : decode (encode i) = some i := by
  cases i with
  | xfer b => exact decode_encode_xfer b
  | wrreg d a v => exact decode_encode_wrreg d a v
  | rdreg d a bc => exact decode_encode_rdreg hw d a
  | sel d => cases d <;> decide
  | desel d => cases d <;> decide
  | rdid d => cases d <;> decide
  | _ => decide

/-- Settles O2, one format at a time. -/
theorem decodeOfEncode : Obligations.DecodeOfEncode := fun _ => decode_encode

/-! The encoder after the decoder. -/

theorem wellFormed_of_decode {w : Word} {i : Instr} (h : decode w = some i) : i.WellFormed :=
  have ⟨_, hw, _⟩ := decode_cases w i h
  hw

/-- R116: every bit of a legal word is a field of its format. -/
theorem encode_of_decode {w : Word} {i : Instr} (h : decode w = some i) : encode i = w := by
  obtain ⟨hmbz, -, henc⟩ := decode_cases w i h
  rw [henc, ← word_eq_wordOf w hmbz]

/-- Settles O3: the command's word is the sum of the fields read, and so is the word itself. -/
theorem encodeOfDecode : Obligations.EncodeOfDecode := fun _ _ h => ⟨wellFormed_of_decode h, encode_of_decode h⟩

/-! The opcode table. -/

/-- R116: the word of every well-formed command matches the command's row. -/
theorem encodedRow_statement (i : Instr) : EncodedRow.Statement i := by
  cases i with
  | init => exact EncodedRow.init
  | sel d => exact EncodedRow.sel d
  | desel d => exact EncodedRow.desel d
  | xfer b => exact EncodedRow.xfer b
  | wrreg d a v => exact EncodedRow.wrreg d a v
  | rdreg d a bc => exact EncodedRow.rdreg d a bc
  | rdax => exact EncodedRow.rdax
  | rday => exact EncodedRow.rday
  | rdaz => exact EncodedRow.rdaz
  | rdgx => exact EncodedRow.rdgx
  | rdgy => exact EncodedRow.rdgy
  | rdgz => exact EncodedRow.rdgz
  | rdmx => exact EncodedRow.rdmx
  | rdmy => exact EncodedRow.rdmy
  | rdmz => exact EncodedRow.rdmz
  | rdtemp => exact EncodedRow.rdtemp
  | rdid d => exact EncodedRow.rdid d

/-- R116: a word matches one row at most, since two rows that it matched would agree on the bits both cover. -/
theorem row_unique {w : Word} {q r : OpcodeRow} (hr : r ∈ opcodeTable) (hq : q ∈ opcodeTable) (hrw : r.Matches w)
    (hqw : q.Matches w) : q = r := by
  refine EncodedRow.rows_disjoint r hr q hq ?_
  rw [← (hrw : w &&& r.mask = r.value), ← (hqw : w &&& q.mask = q.value), BitVec.and_assoc, BitVec.and_assoc,
    BitVec.and_comm r.mask]

/-- A field under a mask that covers it. -/
theorem slice_and_ones (w : Word) (hi lo : Nat) : slice w hi lo &&& (2 ^ (hi + 1 - lo) - 1) = slice w hi lo :=
  Nat.and_two_pow_sub_one_of_lt_two_pow (slice_lt w hi lo)

/-- A row whose mask leaves whole fields open, each other field being given (R107): the word is the sum of the given
fields and its own in the open ones. -/
theorem word_of_matches {w : Word} {op dev addr low bcm1 rw : Nat} (hhi : slice w 27 18 &&& 1023 = 0)
    (hop : slice w 31 28 &&& 15 = op) (hbcm1 : slice w 17 17 = bcm1) (hdev : slice w 16 16 = dev)
    (hrw : slice w 15 15 &&& 1 = rw) (haddr : slice w 14 8 = addr) (hlow : slice w 7 0 = low) :
    wordOf op bcm1 dev rw addr low = w := by
  have hmbz : slice w 27 18 = 0 := (slice_and_ones w 27 18).symm.trans hhi
  rw [word_eq_wordOf w hmbz, (slice_and_ones w 31 28).symm.trans hop, hbcm1, hdev,
    (slice_and_ones w 15 15).symm.trans hrw, haddr, hlow]

/-- R116: a word that matches an operand row is a command's word, the row's open fields being its operands. -/
theorem exists_encode_of_operandRow {w : Word} {r : OpcodeRow} (hr : r ∈ operandRows) (h : r.Matches w) :
    ∃ i : Instr, i.WellFormed ∧ encode i = w := by
  have hbcm1 := slice_and_ones w 17 17
  have haddr := slice_and_ones w 14 8
  have hlow := slice_and_ones w 7 0
  have hdev : (Device.ofCode (slice w 16 16)).code = slice w 16 16 := code_ofCode (slice_lt w 16 16)
  have haddr' : (BitVec.ofNat 7 (slice w 14 8)).toNat = slice w 14 8 := Nat.mod_eq_of_lt (slice_lt w 14 8)
  have hlow' : (BitVec.ofNat 8 (slice w 7 0)).toNat = slice w 7 0 := Nat.mod_eq_of_lt (slice_lt w 7 0)
  obtain ⟨h1, h2, h3, h4, h5, h6, h7⟩ := (matches_iff r w).mp h
  fin_cases hr
  · exact ⟨.sel (.ofCode (slice w 16 16)), trivial,
      word_of_matches h2 h1 (hbcm1.symm.trans h3) hdev.symm h5 (haddr.symm.trans h6) (hlow.symm.trans h7)⟩
  · exact ⟨.desel (.ofCode (slice w 16 16)), trivial,
      word_of_matches h2 h1 (hbcm1.symm.trans h3) hdev.symm h5 (haddr.symm.trans h6) (hlow.symm.trans h7)⟩
  · exact ⟨.xfer (BitVec.ofNat 8 (slice w 7 0)), trivial,
      word_of_matches h2 h1 (hbcm1.symm.trans h3) ((slice_and_ones w 16 16).symm.trans h4) h5 (haddr.symm.trans h6)
        hlow'.symm⟩
  · exact ⟨.wrreg (.ofCode (slice w 16 16)) (BitVec.ofNat 7 (slice w 14 8)) (BitVec.ofNat 8 (slice w 7 0)), trivial,
      word_of_matches h2 h1 (hbcm1.symm.trans h3) hdev.symm h5 haddr'.symm hlow'.symm⟩
  · have hlt : slice w 17 17 < 2 := slice_lt w 17 17
    exact ⟨.rdreg (.ofCode (slice w 16 16)) (BitVec.ofNat 7 (slice w 14 8)) (slice w 17 17 + 1),
      by show LegalByteCount _; omega,
      word_of_matches h2 h1 rfl hdev.symm h5 haddr'.symm (hlow.symm.trans h7)⟩
  · exact ⟨.rdid (.ofCode (slice w 16 16)), trivial,
      word_of_matches h2 h1 (hbcm1.symm.trans h3) hdev.symm h5 (haddr.symm.trans h6) (hlow.symm.trans h7)⟩

/-- R116: a word that matches a row without operands is that row's value. -/
theorem eq_value_of_fixedRow {w : Word} {r : OpcodeRow} (hr : r ∈ fixedRows) (h : r.Matches w) : w = r.value := by
  have hmask : ∀ q ∈ fixedRows, q.mask = BitVec.allOnes 32 := by simp only [fixedRows]; decide
  rw [← (h : w &&& r.mask = r.value), hmask r hr, BitVec.and_allOnes]

/-- R116: a word that matches a row is legal. -/
theorem decode_ne_none_of_matches {w : Word} {r : OpcodeRow} (hr : r ∈ opcodeTable) (h : r.Matches w) :
    decode w ≠ none := by
  rcases List.mem_append.mp hr with hr | hr
  · obtain ⟨i, hw, rfl⟩ := exists_encode_of_operandRow hr h
    simp [decode_encode hw]
  · have hlegal : ∀ q ∈ fixedRows, decode q.value ≠ none := by simp only [fixedRows]; decide
    rw [eq_value_of_fixedRow hr h]
    exact hlegal r hr

/-- Settles O4: a legal word is its command's, which matches the command's row; a word that matches a row is legal. -/
theorem decodeAgreesWithOpcodeTable : Obligations.DecodeAgreesWithOpcodeTable := by
  refine fun w => ⟨fun i h => ?_, fun h r hr hm => decode_ne_none_of_matches hr hm h⟩
  obtain ⟨hmem, hname, hmatch⟩ := encodedRow_statement i (wellFormed_of_decode h)
  rw [encode_of_decode h] at hmatch
  exact ⟨_, hmem, hname, hmatch, fun q hq hqw => row_unique hmem hq hmatch hqw⟩

/-- Settles O1: the words as they stand. -/
theorem writtenWordsDecode : Obligations.WrittenWordsDecode := by
  unfold Obligations.WrittenWordsDecode
  decide

/-- Settles O13: the term is refused by its arm, and a legal word's command is well-formed. -/
theorem noOtherByteCount : Obligations.NoOtherByteCount :=
  ⟨fun _ _ _ _ h1 h2 => if_neg (not_or.mpr ⟨h1, h2⟩), fun _ _ _ _ h => wellFormed_of_decode h⟩

end Sys2Proof
end

section
/-! PROOFS. 10_state.md and 60_exceptions.md: the two ends of a run of bus steps in which no reset comes, and what every
command and every step keep. -/

namespace Sys2Proof.Machine

variable {s t u v : State} {i : Instr} {r : Reply} {bs pre post : List BusStep}

/-! The two ends of a run. -/

/-- R226: the state of a command stuck in the transfer of `x`, which never completes. -/
def State.stuckIn (x : TxByte) (e : Env) (s : State) : State := { s.startShift (x.value s) with env := e }

/-- The three ways a bus step runs. -/
inductive BusStepRuns (b : BusStep) (s t : State) : Prop
  | cfgw (hop : b.op = .cfgw) (ht : t = s.configure.countStep.assigns b.after)
  | cs (d : Device) (v : Level) (hop : b.op = .cs d v) (ht : t = (s.csDrive d v).countStep.assigns b.after)
  | xfer (x : TxByte) (rx : Byte) (e : Env) (hop : b.op = .xfer x)
      (ha : s.env.answer s.lines (x.value s) s.draws = ⟨some rx, e⟩)
      (ht : t = (s.exchanged (x.value s) rx e).assigns b.after)

theorem running_cases {b : BusStep} (h : s.busStep b = .running t) : BusStepRuns b s t := by
  rcases busStep_cases s b with ⟨-, hb⟩ | ⟨-, hop, hb⟩ | ⟨d, v, -, hop, hb⟩ | ⟨x, rx, e, -, hop, ha, hb⟩ |
      ⟨x, e, -, -, -, hb⟩ <;>
    rw [h] at hb <;> cases hb
  · exact .cfgw hop rfl
  · exact .cs d v hop rfl
  · exact .xfer x rx e hop ha rfl

/-- The two ways a bus step stops: a reset comes before it, or its transfer never completes. -/
theorem stopped_cases {b : BusStep} (h : s.busStep b = .stopped t) : t = s.takeReset ∨
    ∃ x e, b.op = .xfer x ∧ s.env.answer s.lines (x.value s) s.draws = ⟨none, e⟩ ∧ t = s.stuckIn x e := by
  cases hr : s.resetNow with
  | true =>
    rw [State.busStep, if_pos hr] at h
    cases h
    exact .inl rfl
  | false => exact .inr (busStep_hangs s t h hr)

/-- How a run of bus steps ends where no reset comes: all of them complete and so does the command, or the transfer of
one of them never does. -/
inductive RunEnds (r : Reply) (bs : List BusStep) (s t : State) : Prop
  | done (u : State) (hrun : s.firstSteps bs = .running u) (ht : t = u.complete r)
  | stuck (pre : List BusStep) (b : BusStep) (post : List BusStep) (u : State) (x : TxByte) (e : Env)
      (hbs : bs = pre ++ b :: post) (hrun : s.firstSteps pre = .running u) (hop : b.op = .xfer x)
      (ha : u.env.answer u.lines (x.value u) u.draws = ⟨none, e⟩) (ht : t = u.stuckIn x e)

theorem runEnds (r : Reply) (hq : s.quietFor bs.length = true) : RunEnds r bs s (s.runSteps r bs) := by
  rw [runSteps_eq]
  rcases firstSteps_cases s hq with ⟨u, hu⟩ | ⟨pre, b, post, u, x, e, hbs, hrun, hop, ha, hu⟩
  · exact .done u hu (by rw [hu])
  · exact .stuck pre b post u x e hbs hrun hop ha (by rw [hu]; rfl)

theorem runEnds_of_exec (h : s.Accepts i) (hq : s.quietFor i.busSteps = true) (hx : exec i s = .next t) :
    RunEnds (planOf i).reply (planOf i).steps (s.accept i (planOf i)) t := by
  rw [exec_of_accepts s h, Host.Outcome.next.injEq] at hx
  obtain ⟨-, hw, -⟩ := h
  subst hx
  exact runEnds _ ((accept_quietFor s i _ _).trans (by rwa [planOf_length hw]))

theorem State.Accepts.wellFormed (h : s.Accepts i) : i.WellFormed := h.2.1

/-- Every answer of `exec` with a next state: a block that is not idle stays as it is, an idle one runs the command. -/
theorem exec_next_cases (hx : exec i s = .next t) : (s.cmd ≠ none ∧ t = s) ∨ s.Accepts i := by
  rcases exec_cases s i with ⟨-, h⟩ | ⟨-, hc, h⟩ | ⟨-, -, -, -, h⟩ | ⟨h, -⟩
  · rw [hx] at h; cases h
  · rw [hx] at h; cases h; exact .inl ⟨hc, rfl⟩
  · rw [hx] at h; cases h
  · exact .inr h

/-! What a run keeps. -/

theorem firstSteps_preserves {P : State → Prop}
    (hstep : ∀ b ∈ bs, ∀ u v : State, u.busStep b = .running v → P u → P v) (h : s.firstSteps bs = .running t)
    (hs : P s) : P t := by
  induction bs generalizing s with
  | nil => cases h; exact hs
  | cons b bs ih =>
    rw [State.firstSteps] at h
    split at h
    next u hu =>
      exact ih (fun c hc => hstep c (List.mem_cons_of_mem b hc)) h (hstep b List.mem_cons_self s u hu hs)
    next => cases h

/-- A property that each bus step keeps, and the completion and the hang as well, holds at the end of the run. -/
theorem RunEnds.preserves {P : State → Prop} (h : RunEnds r bs s t)
    (hstep : ∀ b ∈ bs, ∀ u v : State, u.busStep b = .running v → P u → P v)
    (hdone : ∀ u : State, P u → P (u.complete r)) (hstuck : ∀ (u : State) x e, P u → P (u.stuckIn x e)) (hs : P s) :
    P t := by
  cases h with
  | done u hrun ht => exact ht ▸ hdone u (firstSteps_preserves hstep hrun hs)
  | stuck pre b post u x e hbs hrun hop ha ht =>
    subst hbs ht
    exact hstuck u x e (firstSteps_preserves (fun c hc => hstep c (List.mem_append_left _ hc)) hrun hs)

/-- R29, R31: a run appends events, and the lines are as the events make them. -/
theorem RunEnds.events (h : RunEnds r bs s t) :
    ∃ es, t.trace = s.trace ++ es ∧ t.lines = s.lines.after es := by
  cases h with
  | done u hrun ht =>
    obtain ⟨es, htr, -, hl⟩ := (ranOn_of_firstSteps s u hrun).events
    exact ⟨es, ht ▸ htr, ht ▸ hl⟩
  | stuck pre b post u x e hbs hrun hop ha ht =>
    obtain ⟨es, htr, -, hl⟩ := (ranOn_of_firstSteps s u hrun).events
    exact ⟨es, ht ▸ htr, ht ▸ hl⟩

/-- The `CFG` register and `STATUS.INITD`, which only INIT writes (R27, R30). -/
structure CfgView where
  mstr : Bool
  msbf : Bool
  ckdiv : Nat
  ainc : Bool
  initd : Bool

def State.config (s : State) : CfgView := ⟨s.mstr, s.msbf, s.ckdiv, s.ainc, s.initd⟩

theorem assigns_initd {as : List Assign} (h : .setInitd ∉ as) (s : State) : (s.assigns as).initd = s.initd := by
  induction as generalizing s with
  | nil => rfl
  | cons a as ih =>
    obtain ⟨ha, has⟩ := not_or.mp (mt List.mem_cons.mpr h)
    rw [assigns_cons, ih has]
    cases a with
    | setInitd => exact absurd rfl ha
    | _ => rfl

theorem assigns_rdxbuf {as : List Assign} (hlow : .rdxLow ∉ as) (hhigh : .rdxHigh ∉ as) (s : State) :
    (s.assigns as).rdxbuf = s.rdxbuf := by
  induction as generalizing s with
  | nil => rfl
  | cons a as ih =>
    obtain ⟨hl, hlow⟩ := not_or.mp (mt List.mem_cons.mpr hlow)
    obtain ⟨hh, hhigh⟩ := not_or.mp (mt List.mem_cons.mpr hhigh)
    rw [assigns_cons, ih hlow hhigh]
    cases a with
    | rdxLow => exact absurd rfl hl
    | rdxHigh => exact absurd rfl hh
    | _ => rfl

theorem initd_assigns_of_initd (as : List Assign) (h : s.initd = true) : (s.assigns as).initd = true := by
  induction as generalizing s with
  | nil => exact h
  | cons a as ih =>
    refine ih ?_
    cases a with
    | setInitd => rfl
    | _ => exact h

/-- R30: a bus step other than the configuration, on which `STATUS.INITD` does not ride, leaves the configuration. -/
theorem config_of_busStep {b : BusStep} (hop : b.op ≠ .cfgw) (has : .setInitd ∉ b.after)
    (h : s.busStep b = .running t) : t.config = s.config := by
  rcases running_cases h with ⟨hop', rfl⟩ | ⟨d, v, -, rfl⟩ | ⟨x, rx, e, -, -, rfl⟩
  · exact absurd hop' hop
  · simp [State.config, assigns_initd has]
  · simp [State.config, assigns_initd has, State.exchanged, State.endShift, State.startShift]

/-- R27: no bus step clears `STATUS.INITD`. -/
theorem initd_of_busStep {b : BusStep} (h : s.busStep b = .running t) (hi : s.initd = true) : t.initd = true := by
  rcases running_cases h with ⟨-, rfl⟩ | ⟨d, v, -, rfl⟩ | ⟨x, rx, e, -, -, rfl⟩ <;> exact initd_assigns_of_initd _ hi

/-- R27: `STATUS.INITD` is written only with the bus step on which it rides. -/
theorem initd_eq_of_busStep {b : BusStep} (has : .setInitd ∉ b.after) (h : s.busStep b = .running t) :
    t.initd = s.initd := by
  rcases running_cases h with ⟨-, rfl⟩ | ⟨d, v, -, rfl⟩ | ⟨x, rx, e, -, -, rfl⟩ <;> exact assigns_initd has _

/-- R22: `RDXBUF` is written only with the bus steps on which one of its stages rides. -/
theorem rdxbuf_of_busStep {b : BusStep} (hlow : .rdxLow ∉ b.after) (hhigh : .rdxHigh ∉ b.after)
    (h : s.busStep b = .running t) : t.rdxbuf = s.rdxbuf := by
  rcases running_cases h with ⟨-, rfl⟩ | ⟨d, v, -, rfl⟩ | ⟨x, rx, e, -, -, rfl⟩ <;> exact assigns_rdxbuf hlow hhigh _

/-! What acceptance keeps. -/

@[simp] theorem accept_planOf_initd (s : State) (i : Instr) : (s.accept i (planOf i)).initd = s.initd := by
  cases i <;> rfl

@[simp] theorem accept_planOf_rdxbuf (s : State) (i : Instr) : (s.accept i (planOf i)).rdxbuf = s.rdxbuf := by
  cases i <;> rfl

@[simp] theorem accept_planOf_config (s : State) (i : Instr) : (s.accept i (planOf i)).config = s.config := by
  cases i <;> rfl

/-! The plans. -/

/-- R30: only INIT has the configuration among its bus steps, and `STATUS.INITD` rides only there. -/
theorem planOf_configures_only_init (hi : i ≠ .init) : ∀ b ∈ (planOf i).steps, b.op ≠ .cfgw ∧ .setInitd ∉ b.after := by
  cases i with
  | init => exact absurd rfl hi
  | rdreg d a bc => simp only [planOf, planRdreg, readFrame]; split <;> simp
  | _ => simp [planOf, planSel, planDesel, planXfer, planWrreg, writeFrame, planRdax, planRday, planRdaz, planRdgx,
      planRdgy, planRdgz, planRdmx, planRdmy, planRdmz, planRdtemp, planRdid, scaledRead, readFrame]

/-- R165: `STATUS.INITD` rides on the last bus step of INIT, and on no other. -/
theorem setInitd_rides_last (i : Instr) : ∀ b ∈ (planOf i).steps.dropLast, .setInitd ∉ b.after := by
  by_cases hi : i = .init
  · subst hi
    simp [planOf, planInit, scriptSteps, initScript, writeFrame, loadWrite]
  · exact fun b hb => (planOf_configures_only_init hi b (List.mem_of_mem_dropLast hb)).2

/-- R24, R265: no plan has more than 25 bus steps. -/
theorem planOf_length_le (i : Instr) : (planOf i).steps.length ≤ 25 := by
  cases i with
  | rdreg d a bc => simp only [planOf, planRdreg, readFrame]; split <;> simp
  | _ => exact (planOf_length trivial).le.trans (busSteps_le trivial)

/-! Each command as a whole. -/

/-- R37, R250: the block's state after a reset. -/
theorem takeReset_afterReset (s : State) : s.takeReset.AfterReset where
  cmd := rfl
  seq := rfl
  busy := rfl
  initd := rfl
  ill := rfl
  agN := rfl
  mN := rfl
  mstr := rfl
  msbf := rfl
  ainc := rfl
  trace := rfl

/-- R226, R265: with its transfers completing an accepted command runs all its bus steps. -/
theorem firstSteps_accepted (h : s.Accepts i) (hq : s.quietFor i.busSteps = true)
    (hc : s.env.completes i.transfers s.draws = true) :
    ∃ u, (s.accept i (planOf i)).firstSteps (planOf i).steps = .running u := by
  obtain ⟨-, hw, -⟩ := h
  refine firstSteps_of_completes _ ((accept_quietFor s i _ _).trans (by rwa [planOf_length hw])) ?_
  rw [planOf_transfers hw]
  simpa using hc

/-- An accepted command whose bus steps all run completes. -/
theorem exec_of_firstSteps (h : s.Accepts i) (hrun : (s.accept i (planOf i)).firstSteps (planOf i).steps = .running u) :
    exec i s = .next (u.complete (planOf i).reply) := by
  rw [exec_of_accepts s h, runSteps_eq]
  exact congrArg _ (by rw [hrun])

/-- Settles O38: the bus steps and transfers of the run are those of the plan. -/
theorem commandsCompleteInTheirBusSteps : Obligations.CommandsCompleteInTheirBusSteps := by
  intro i s h hq hc
  obtain ⟨u, hu⟩ := firstSteps_accepted h hq hc
  have hran := ranOn_of_firstSteps _ _ hu
  obtain ⟨es, htr, hlen, -⟩ := hran.events
  refine ⟨_, exec_of_firstSteps h hu, rfl, rfl, rfl, ?_, ?_⟩
  · rw [complete_trace, htr, List.length_append, hlen, planOf_length h.wellFormed, accept_trace]
  · rw [complete_draws, hran.draws, planOf_transfers h.wellFormed, accept_draws]

/-- R226: an accepted command whose transfers do not all complete is stuck in one of them. -/
theorem stuck_of_not_completes (h : s.Accepts i) (hq : s.quietFor i.busSteps = true)
    (hc : s.env.completes i.transfers s.draws = false) :
    ∃ pre b post u x e, (planOf i).steps = pre ++ b :: post ∧ (s.accept i (planOf i)).firstSteps pre = .running u ∧
      b.op = .xfer x ∧ exec i s = .next (u.stuckIn x e) := by
  have hx := exec_of_accepts s h
  rcases runEnds_of_exec h hq hx with ⟨u, hrun, ht⟩ | ⟨pre, b, post, u, x, e, hbs, hrun, hop, ha, ht⟩
  · have hcompl := completes_of_firstSteps _ _ hrun
    rw [planOf_transfers h.wellFormed, accept_env, accept_draws, hc] at hcompl
    cases hcompl
  · exact ⟨pre, b, post, u, x, e, hbs, hrun, hop, by rw [hx, ht]⟩

/-- R104: a transfer belongs to an open frame. -/
theorem open_of_framed_xfer {d : Device} {o : Bool} {b : BusStep} {x : TxByte} (h : framed d o (b :: bs) = true)
    (hop : b.op = .xfer x) : o = true := by
  obtain ⟨op, as⟩ := b
  subst hop
  simp only [framed, Bool.and_eq_true] at h
  exact h.1.1

/-- R104, R226: a command that selects its own device can only be stuck with that device's line low. -/
theorem line_low_in_transfer {b : BusStep} {x : TxByte} (hw : i.WellFormed) (hi : i.composite = true)
    (hbs : (planOf i).steps = pre ++ b :: post) (hrun : (s.accept i (planOf i)).firstSteps pre = .running u)
    (hop : b.op = .xfer x) : u.line u.td.dev = .low := by
  have hframed := planOf_framed s hw hi
  rw [hbs] at hframed
  obtain ⟨o, hrest, -, hline⟩ := framed_run _ u hframed hrun
  exact hline (by simp) (open_of_framed_xfer hrest hop)

/-- R27: before the last bus step of a command `STATUS.INITD` is as it was. -/
theorem initd_before_last {b : BusStep} (hbs : (planOf i).steps = pre ++ b :: post)
    (hrun : (s.accept i (planOf i)).firstSteps pre = .running u) : u.initd = s.initd := by
  have hlast : ∀ c ∈ pre, Assign.setInitd ∉ c.after := fun c hc => by
    refine setInitd_rides_last i c ?_
    rw [hbs, List.dropLast_append_of_ne_nil (by simp)]
    exact List.mem_append_left _ hc
  exact firstSteps_preserves (P := fun v => v.initd = s.initd)
    (fun c hc _ _ hv hu => (initd_eq_of_busStep (hlast c hc) hv).trans hu) hrun (accept_planOf_initd s i)

/-- Settles O39: the command is stuck before the last bus step, so its `SEQ` counts the events so far and nothing that
comes with the completion has happened. -/
theorem commandsHangInTheirTransfer : Obligations.CommandsHangInTheirTransfer := by
  intro i s h hq hc
  obtain ⟨pre, b, post, u, x, e, hbs, hrun, hop, hx⟩ := stuck_of_not_completes h hq hc
  have hran := ranOn_of_firstSteps _ _ hrun
  obtain ⟨es, htr, hlen, -⟩ := hran.events
  have hcmd : u.cmd = some i := hran.cmd.trans (accept_cmd s i _)
  have hseq : u.seq = pre.length := hran.seq.trans (by simp )
  have hpos : pre.length < i.busSteps := by
    rw [← planOf_length h.wellFormed, hbs]
    simp
  have hinitd : u.initd = s.initd := initd_before_last hbs hrun
  refine ⟨_, hx, hcmd, rfl, by simpa [State.stuckIn, hseq] using hpos, ?_, hran.strobe.trans (accept_strobe s i _),
    ?_, hran.res.trans (accept_res s i _), hinitd, hran.ill.trans (accept_ill s i _),
    hran.host.trans (accept_host s i _), fun hi => ?_⟩
  · show u.trace.length = s.trace.length + u.seq
    rw [htr, List.length_append, hlen, hseq, accept_trace]
  · show u.cmd.isNone = false
    rw [hcmd]
    rfl
  · have hline : u.line u.td.dev = .low := line_low_in_transfer h.wellFormed hi hbs hrun hop
    exact hline

/-- Settles O41: the first `k` bus steps run, so `SEQ` is `k`, and the rest of the plan is what is dropped up to `SEQ`.
-/
theorem sequencerCounterIsThePosition : Obligations.SequencerCounterIsThePosition := by
  intro i s u k h hk hrun
  have hlen := planOf_length h.wellFormed
  have hran := ranOn_of_firstSteps _ _ hrun
  have hcmd : u.cmd = some i := hran.cmd.trans (accept_cmd s i _)
  have hseq : u.seq = k := by
    rw [hran.seq, accept_seq, List.length_take, hlen, Nat.zero_add, Nat.min_eq_left hk]
  have hresume : exec i s = .next (u.resume (planOf i)) := by
    rw [exec_of_accepts s h, State.resume, hseq, ← runSteps_append _ u _ _ hrun, List.take_append_drop]
  refine ⟨hcmd, hseq, hk.trans (busSteps_le h.wellFormed), hresume, fun hb hr => ?_⟩
  rw [hresume]
  simp [step, hr, hcmd, State.goOn, hb]

/-- Settles O17: the bus steps before the reset run, and the next one finds it asserted. -/
theorem resetAbandonsRunningCommand : Obligations.ResetAbandonsRunningCommand := by
  intro i s n rest h hres hn hc
  have hlen := planOf_length h.wellFormed
  have hsplit := List.take_append_drop n (planOf i).steps
  have hcount := transfersIn_append ((planOf i).steps.take n) ((planOf i).steps.drop n)
  rw [hsplit, planOf_transfers h.wellFormed] at hcount
  obtain ⟨u, hu⟩ : ∃ u, (s.accept i (planOf i)).firstSteps ((planOf i).steps.take n) = .running u := by
    refine firstSteps_of_completes _ ?_ ?_
    · simp [State.quietFor, hres]
    · simpa using completes_mono hc (by omega)
  have hran := ranOn_of_firstSteps _ _ hu
  have hures : u.resets = 0 :: rest := by
    rw [hran.resets, accept_resets, hres, List.length_take, hlen, Nat.min_eq_left hn.le, tickBy,
      Nat.sub_self]
  obtain ⟨b, bs, hdrop⟩ := List.exists_cons_of_ne_nil (l := (planOf i).steps.drop n)
    (by simpa [List.drop_eq_nil_iff, hlen] using hn)
  have hstop : u.busStep b = .stopped u.takeReset := by simp [State.busStep, State.resetNow, hures]
  refine ⟨u.takeReset, ?_, takeReset_afterReset u, rfl, ?_, ?_⟩
  · rw [exec_of_accepts s h, ← hsplit, runSteps_append _ u _ _ hu, hdrop, runSteps_cons_stopped hstop]
  · rw [takeReset_resets, hures, List.tail_cons]
  · rw [takeReset_host, hran.host, accept_host]

end Sys2Proof.Machine
end

section
/-! PROOFS. 10_state.md and 70_reset_and_hazards.md: everything one step of the machine can do, and the rules every step
keeps. -/

namespace Sys2Proof.Machine

variable {s t u v : State} {i : Instr} {r : Reply} {bs : List BusStep} {w : Word} {rest : List Word}

/-! One step. -/

theorem step_of_reset (hr : s.resetNow = true) : step s = .next s.takeReset := by simp [step, hr]

theorem step_of_cmd (hr : s.resetNow = false) (hc : s.cmd = some i) : step s = .next (s.goOn i) := by
  simp [step, hr, hc]

theorem step_of_no_word (hr : s.resetNow = false) (hc : s.cmd = none) (hh : s.host = []) : step s = .next s.wait := by
  simp [step, hr, hc, hh]

theorem step_of_legal (hr : s.resetNow = false) (hc : s.cmd = none) (hh : s.host = w :: rest)
    (hd : decode w = some i) : step s = exec i (s.take rest) := by
  simp [step, hr, hc, hh, hd]

/-- Settles O9: taking the word is what changes the host's list and the reset input. -/
theorem stepRunsDecodedCommand : Obligations.StepRunsDecodedCommand :=
  fun _ _ _ _ hr hc hh hd => step_of_legal hr hc hh hd

/-- Settles O14: the step of an idle block without a word is a wait. -/
theorem idleBlockWaits : Obligations.IdleBlockWaits :=
  fun _ hr hc hh => step_of_no_word hr hc hh

/-- R226: a hung block waits. -/
theorem step_of_hung (h : s.Hung) (hr : s.resetNow = false) : step s = .next s.wait := by
  obtain ⟨hc, hb⟩ := h
  obtain ⟨i, hi⟩ := Option.ne_none_iff_exists'.mp hc
  rw [step_of_cmd hr hi, State.goOn, if_pos hb]

/-- Settles O40: the step of a hung block is a wait. -/
theorem hangLastsUntilReset : Obligations.HangLastsUntilReset := fun _ h hr => step_of_hung h hr

/-- Settles O11: the configuration is all that acceptance asks of a state with no command, and INIT does not ask it. -/
theorem commandsBeforeInitAreRefused : Obligations.CommandsBeforeInitAreRefused := by
  refine ⟨fun i s hw hi hc h => exec_of_unconfigured s hw hi hc ?_,
    fun s hc => ⟨_, exec_of_accepts s ⟨hc, trivial, .inl rfl⟩⟩⟩
  rcases h with h | h | h <;> simp [State.configured, h]

/-- Settles O12: a block that holds a command turns a second one away, and its port says so. -/
theorem busyBlockAcceptsNothing : Obligations.BusyBlockAcceptsNothing := by
  refine fun i s hw hc => ⟨exec_of_busy s hw hc, ?_⟩
  rw [← Bool.not_eq_true, s.cmdReady_iff]
  exact hc

/-! Reset. -/

/-- R250: the rise of the lines that were low touches no register. -/
theorem raiseLines_regs (s : State) : s.raiseLines.regs = s.env.regs := by
  funext d
  unfold State.raiseLines
  split <;> split <;> simp

theorem memWf_raiseLines (s : State) : s.raiseLines.memWf = s.env.memWf := by
  unfold State.raiseLines
  split <;> split <;> simp

/-- R250: a sub-device whose line was low sees it rise. -/
theorem raiseLines_idle {rd : RefDev} {d : Device} (he : s.env = .refDev rd) (hl : s.line d = .low) :
    ∃ rd', s.raiseLines = .refDev rd' ∧ (rd'.sub d).phase = .idle := by
  unfold State.raiseLines
  rw [he]
  cases d with
  | ag =>
    have hl : s.agN = .low := hl
    rw [if_pos hl]
    split
    · exact ⟨_, rfl, rfl⟩
    · exact ⟨_, rfl, rfl⟩
  | m =>
    have hl : s.mN = .low := hl
    simp only [if_pos hl]
    split
    · exact ⟨_, rfl, rfl⟩
    · exact ⟨_, rfl, rfl⟩

/-- Settles O16: the step is the taking of the reset. -/
theorem resetWinsOverEverything : Obligations.ResetWinsOverEverything :=
  fun s hr => ⟨s.takeReset, step_of_reset hr, takeReset_afterReset s, rfl, rfl, rfl, raiseLines_regs s,
    fun _ _ he hl => raiseLines_idle he hl⟩

/-! Everything a step can do. -/

/-- Everything a step that answers a next state can do. -/
inductive StepEnds (s t : State) : Prop
  | reset (hr : s.resetNow = true) (ht : t = s.takeReset)
  | goesOn (i : Instr) (hr : s.resetNow = false) (hc : s.cmd = some i) (ht : t = s.goOn i)
  | waits (hr : s.resetNow = false) (hc : s.cmd = none) (hh : s.host = []) (ht : t = s.wait)
  | illegal (w : Word) (rest : List Word) (hr : s.resetNow = false) (hc : s.cmd = none) (hh : s.host = w :: rest)
      (hd : decode w = none) (ht : t = (s.take rest).takeIllegal)
  | runs (w : Word) (rest : List Word) (i : Instr) (hr : s.resetNow = false) (hc : s.cmd = none)
      (hh : s.host = w :: rest) (hd : decode w = some i) (ha : (s.take rest).Accepts i)
      (hx : exec i (s.take rest) = .next t)

theorem stepEnds (h : step s = .next t) : StepEnds s t := by
  cases hr : s.resetNow with
  | true => rw [step_of_reset hr] at h; cases h; exact .reset hr rfl
  | false =>
    cases hc : s.cmd with
    | some i => rw [step_of_cmd hr hc] at h; cases h; exact .goesOn i hr hc rfl
    | none =>
      cases hh : s.host with
      | nil => rw [step_of_no_word hr hc hh] at h; cases h; exact .waits hr hc hh rfl
      | cons w rest =>
        cases hd : decode w with
        | none => rw [step_of_illegal hr hc hh hd] at h; cases h; exact .illegal w rest hr hc hh hd rfl
        | some i =>
          rw [step_of_legal hr hc hh hd] at h
          rcases exec_next_cases h with ⟨hbusy, -⟩ | ha
          · exact absurd hc hbusy
          · exact .runs w rest i hr hc hh hd ha h

/-- The parts of the block that taking a word and accepting its command leave as they were. -/
structure State.Continues (s u : State) : Prop where
  trace : u.trace = s.trace
  lines : u.lines = s.lines
  config : u.config = s.config
  ill : u.ill = s.ill

theorem continues_refl (s : State) : s.Continues s := ⟨rfl, rfl, rfl, rfl⟩

theorem continues_accept (s : State) (rest : List Word) (i : Instr) :
    s.Continues ((s.take rest).accept i (planOf i)) :=
  ⟨accept_trace _ _ _, accept_lines _ _ _, accept_planOf_config _ _, accept_ill _ _ _⟩

/-- Everything a step can do where no reset comes: wait, take an illegal word, or run bus steps of the command it holds
or takes. -/
inductive QuietStepEnds (s t : State) : Prop
  | waits (ht : t = s.wait)
  | illegal (w : Word) (rest : List Word) (hh : s.host = w :: rest) (hd : decode w = none)
      (ht : t = (s.take rest).takeIllegal)
  | runs (i : Instr) (u : State) (bs : List BusStep)
      (hi : s.cmd = some i ∨ ∃ w rest, s.host = w :: rest ∧ decode w = some i) (hu : s.Continues u)
      (hbs : bs ⊆ (planOf i).steps) (hrun : RunEnds (planOf i).reply bs u t)

theorem quietStepEnds (hq : s.quietFor 26 = true) (h : step s = .next t) : QuietStepEnds s t := by
  rcases stepEnds h with ⟨hr, -⟩ | ⟨i, -, hc, ht⟩ | ⟨-, -, -, ht⟩ | ⟨w, rest, -, -, hh, hd, ht⟩ |
    ⟨w, rest, i, -, -, hh, hd, ha, hx⟩
  · rw [resetNow_of_quiet s hq] at hr
    cases hr
  · unfold State.goOn at ht
    split at ht
    · exact .waits ht
    · have hle : ((planOf i).steps.drop s.seq).length ≤ 26 := by
        have hlen := planOf_length_le i
        rw [List.length_drop]
        omega
      exact .runs i s _ (.inl hc) (continues_refl s) (List.drop_subset _ _)
        (by rw [ht]; exact runEnds _ (quietFor_mono s hq hle))
  · exact .waits ht
  · exact .illegal w rest hh hd ht
  · have hq' : (s.take rest).quietFor 25 = true := quietFor_of_resets s _ hq rfl
    exact .runs i _ _ (.inr ⟨w, rest, hh, hd⟩) (continues_accept s rest i) (List.Subset.refl _)
      (runEnds_of_exec ha (quietFor_mono _ hq' (busSteps_le ha.wellFormed)) hx)

/-! The rules every step keeps. -/

/-- Settles O47: a run appends events, and the lines are as they make them; every other step appends none. -/
theorem linesFollowTheEvents : Obligations.LinesFollowTheEvents := by
  intro s t hq h
  rcases quietStepEnds hq h with rfl | ⟨w, rest, -, -, rfl⟩ | ⟨i, u, bs, -, hu, -, hrun⟩
  · exact ⟨[], (List.append_nil _).symm, rfl⟩
  · exact ⟨[], (List.append_nil _).symm, rfl⟩
  · obtain ⟨es, htr, hl⟩ := hrun.events
    exact ⟨es, by rw [htr, hu.trace], by rw [hl, hu.lines]⟩

/-- R30: a run of bus steps of a command other than INIT leaves the configuration. -/
theorem RunEnds.config (h : RunEnds r bs s t) (hbs : bs ⊆ (planOf i).steps) (hi : i ≠ .init) :
    t.config = s.config :=
  h.preserves (P := fun u => u.config = s.config)
    (fun b hb _ _ hv hu =>
      have ⟨hop, has⟩ := planOf_configures_only_init hi b (hbs hb)
      (config_of_busStep hop has hv).trans hu)
    (fun _ hu => hu) (fun _ _ _ hu => hu) rfl

/-- Settles O48: the command whose bus steps run is not INIT. -/
theorem onlyInitConfigures : Obligations.OnlyInitConfigures := by
  intro s t hq hcmd hhost h
  have hconfig : t.config = s.config := by
    rcases quietStepEnds hq h with rfl | ⟨w, rest, -, -, rfl⟩ | ⟨i, u, bs, hi, hu, hbs, hrun⟩
    · rfl
    · rfl
    · have hinit : i ≠ .init := by
        rintro rfl
        rcases hi with hi | ⟨w, rest, hh, hd⟩
        · exact hcmd hi
        · exact hhost w rest hh hd
      exact (hrun.config hbs hinit).trans hu.config
  simpa [State.config] using hconfig

theorem RunEnds.initd (h : RunEnds r bs s t) (hi : s.initd = true) : t.initd = true :=
  h.preserves (P := fun u => u.initd = true) (fun _ _ _ _ hv hu => initd_of_busStep hv hu) (fun _ hu => hu)
    (fun _ _ _ hu => hu) hi

theorem RunEnds.ill (h : RunEnds r bs s t) : t.ill = s.ill :=
  h.preserves (P := fun u => u.ill = s.ill) (fun _ _ u v hv hu => (advanced_of_busStep u v hv).ill.trans hu)
    (fun _ hu => hu) (fun _ _ _ hu => hu) rfl

/-- Settles O49: no bus step clears `STATUS.INITD`, and only taking an illegal word writes `STATUS.ILL`. -/
theorem initdAndIllAreSticky : Obligations.InitdAndIllAreSticky := by
  intro s t hq h
  rcases quietStepEnds hq h with rfl | ⟨w, rest, hh, hd, rfl⟩ | ⟨i, u, bs, -, hu, -, hrun⟩
  · refine ⟨id, id, fun h0 h1 => ?_⟩
    rw [wait_ill, h0] at h1
    cases h1
  · exact ⟨id, fun _ => rfl, fun _ _ => ⟨w, rest, hh, hd⟩⟩
  · have hill : t.ill = s.ill := hrun.ill.trans hu.ill
    have hinitd : u.initd = s.initd := congrArg CfgView.initd hu.config
    refine ⟨fun hi => hrun.initd (hinitd.trans hi), fun hi => hill.trans hi, fun h0 h1 => ?_⟩
    rw [hill, h0] at h1
    cases h1

/-! What commands leave unchanged. -/

/-- R22: bus steps without a stage of `RDXBUF` leave it. -/
theorem RunEnds.rdxbuf (h : RunEnds r bs s t)
    (hbs : ∀ b ∈ bs, .rdxLow ∉ b.after ∧ .rdxHigh ∉ b.after) : t.rdxbuf = s.rdxbuf :=
  h.preserves (P := fun u => u.rdxbuf = s.rdxbuf)
    (fun b hb _ _ hv hu => (rdxbuf_of_busStep (hbs b hb).1 (hbs b hb).2 hv).trans hu) (fun _ hu => hu)
    (fun _ _ _ hu => hu) rfl

/-- R23: a command that returns no value leaves `RES`. -/
theorem RunEnds.res (h : RunEnds .noValue bs s t) : t.res = s.res :=
  h.preserves (P := fun u => u.res = s.res) (fun _ _ u v hv hu => (advanced_of_busStep u v hv).res.trans hu)
    (fun _ hu => hu) (fun _ _ _ hu => hu) rfl

/-- R22: the commands that read no device register have no stage of `RDXBUF` in their plans. -/
theorem planOf_writes_no_rdxbuf
    (hi : i = .init ∨ (∃ d, i = .sel d) ∨ (∃ d, i = .desel d) ∨ (∃ b, i = .xfer b) ∨ ∃ d a v, i = .wrreg d a v) :
    ∀ b ∈ (planOf i).steps, .rdxLow ∉ b.after ∧ .rdxHigh ∉ b.after := by
  rcases hi with rfl | ⟨d, rfl⟩ | ⟨d, rfl⟩ | ⟨b, rfl⟩ | ⟨d, a, v, rfl⟩
  · simp [planOf, planInit, initScript, scriptSteps, writeFrame, loadWrite]
  · simp [planOf, planSel]
  · simp [planOf, planDesel]
  · simp [planOf, planXfer]
  · simp [planOf, planWrreg, writeFrame]

/-- R23: the commands that return no value. -/
theorem planOf_noValue (hi : i = .init ∨ (∃ d, i = .sel d) ∨ (∃ d, i = .desel d) ∨ ∃ d a v, i = .wrreg d a v) :
    (planOf i).reply = .noValue := by
  rcases hi with rfl | ⟨d, rfl⟩ | ⟨d, rfl⟩ | ⟨d, a, v, rfl⟩ <;> rfl

/-- Settles O50: the commands named first have no stage of `RDXBUF` in their plans, those named second return no value.
-/
theorem scratchAndResponseFrame : Obligations.ScratchAndResponseFrame := by
  intro i s t hq hx
  rcases exec_next_cases hx with ⟨-, rfl⟩ | ha
  · exact ⟨fun _ => rfl, fun _ => rfl⟩
  · have hrun := runEnds_of_exec ha hq hx
    refine ⟨fun hi => (hrun.rdxbuf (planOf_writes_no_rdxbuf hi)).trans (accept_planOf_rdxbuf s i), fun hi => ?_⟩
    rw [planOf_noValue hi] at hrun
    exact hrun.res.trans (accept_res s i _)

/-- Settles O21: SEL and DESEL drive one line, XFER makes one transfer, answered or not. -/
theorem transportFrame : Obligations.TransportFrame := by
  intro i s t hi hq hx
  rcases exec_next_cases hx with ⟨-, rfl⟩ | ha
  · exact ⟨rfl, rfl, rfl, rfl, rfl, rfl, rfl, rfl, by omega, fun _ => ⟨rfl, rfl, rfl⟩, fun _ => rfl⟩
  · have hplan : (∃ d v, planOf i = ⟨[], [⟨.cs d v, []⟩], .noValue⟩ ∧ ∀ b, i ≠ .xfer b) ∨ ∃ b, i = .xfer b := by
      rcases hi with ⟨d, rfl⟩ | ⟨d, rfl⟩ | hi
      · exact .inl ⟨d, .low, rfl, by simp⟩
      · exact .inl ⟨d, .high, rfl, by simp⟩
      · exact .inr hi
    rcases hplan with ⟨d, v, hp, hne⟩ | ⟨b, rfl⟩
    · rw [exec_of_drivePlan hp ha hq] at hx
      cases hx
      exact ⟨rfl, rfl, rfl, rfl, rfl, rfl, rfl, rfl, List.length_append.le, fun _ => ⟨rfl, rfl, rfl⟩,
        fun ⟨b, hb⟩ => absurd hb (hne b)⟩
    · rcases hans : s.env.answer s.lines b s.draws with ⟨_ | rx, e⟩
      · rw [exec_xfer_hangs ha hq hans] at hx
        cases hx
        exact ⟨rfl, rfl, rfl, rfl, rfl, rfl, rfl, rfl, Nat.le_succ _, fun hne => absurd rfl (hne b), fun _ => rfl⟩
      · rw [exec_xfer_answered ha hq hans] at hx
        cases hx
        exact ⟨rfl, rfl, rfl, rfl, rfl, rfl, rfl, rfl, List.length_append.le, fun hne => absurd rfl (hne b),
          fun _ => rfl⟩

end Sys2Proof.Machine
end

section
/-! PROOFS. 10_state.md R36 and 70_reset_and_hazards.md R257: the lines along a command that selects its own device, and
the invariant of the machine. -/

namespace Sys2Proof.Machine

variable {s t u : State} {i : Instr} {bs pre : List BusStep}

/-! The lines along a command that selects its own device. -/

section composite

variable (hw : i.WellFormed) (hi : i.composite = true) (hl : s.lines = Lines.bothHigh)
include hw hi hl

/-- R104: after some bus steps of the command the lines are as the open frame says, and the rest of the plan is whole
frames again. -/
theorem lines_of_firstSteps {post : List BusStep} (hbs : (planOf i).steps = pre ++ post)
    (hrun : (s.accept i (planOf i)).firstSteps pre = .running u) :
    ∃ o, framed u.td.dev o post = true ∧ u.lines = frameLines u.td.dev o := by
  have hframed := planOf_framed s hw hi
  rw [hbs] at hframed
  obtain ⟨o, hrest, hlines, -⟩ := framed_run _ u hframed hrun
  exact ⟨o, hrest, hlines ((accept_lines s i _).trans hl)⟩

/-- R36: the events of some bus steps of the command never have two lines low. -/
theorem exclusive_of_firstSteps (hpre : pre <+: (planOf i).steps)
    (hrun : (s.accept i (planOf i)).firstSteps pre = .running u) :
    ∃ es, u.trace = s.trace ++ es ∧ (∀ p, p <+: es → (Lines.bothHigh.after p).Exclusive) ∧
      u.lines = Lines.bothHigh.after es := by
  obtain ⟨es, htr, hlines, hall⟩ := events_of_firstSteps _ _ hrun
  rw [accept_lines, hl] at hlines
  refine ⟨es, htr.trans (by rw [accept_trace]), fun p hp => ?_, hlines⟩
  obtain ⟨pre', v, hpre', hrun', hlines'⟩ := hall p hp
  obtain ⟨post, hpost⟩ := hpre'.trans hpre
  obtain ⟨o, -, hv⟩ := lines_of_firstSteps hw hi hl hpost.symm hrun'
  rw [accept_lines, hl, hv] at hlines'
  exact hlines' ▸ frameLines_exclusive _ _

/-- R36: after the last bus step of the command both lines are high. -/
theorem bothHigh_of_firstSteps (hrun : (s.accept i (planOf i)).firstSteps (planOf i).steps = .running u) :
    u.lines = Lines.bothHigh := by
  obtain ⟨o, hclosed, hlines⟩ := lines_of_firstSteps hw hi hl (List.append_nil _).symm hrun
  cases o with
  | false => exact hlines
  | true => cases hclosed

end composite

/-- Settles O42: the command's events are those of its bus steps as far as it runs, and a stuck command is not complete.
-/
theorem chipSelectsAreExclusive : Obligations.ChipSelectsAreExclusive := by
  intro i s t hi h hl hq hx
  obtain ⟨-, hw, -⟩ := id h
  rcases runEnds_of_exec h hq hx with ⟨u, hrun, rfl⟩ | ⟨pre, b, post, u, x, e, hbs, hrun, -, -, rfl⟩
  · obtain ⟨es, htr, hexcl, hlines⟩ := exclusive_of_firstSteps hw hi hl (List.prefix_refl _) hrun
    have hhigh : u.lines = Lines.bothHigh := bothHigh_of_firstSteps hw hi hl hrun
    exact ⟨es, htr, hexcl, hlines, fun _ => hhigh⟩
  · obtain ⟨es, htr, hexcl, hlines⟩ := exclusive_of_firstSteps hw hi hl ⟨b :: post, hbs.symm⟩ hrun
    have hcmd : u.cmd = some i := (ranOn_of_firstSteps _ _ hrun).cmd.trans (accept_cmd s i _)
    exact ⟨es, htr, hexcl, hlines, fun hnone => by cases hcmd.symm.trans hnone⟩

/-- Settles O43: the completed command leaves both lines high and the mark of the host program alone. -/
theorem wholeCommandsKeepSafe : Obligations.WholeCommandsKeepSafe := by
  intro i s hi h hsafe hl hq hc
  obtain ⟨hfault, -, -⟩ := hsafe
  obtain ⟨u, hrun⟩ := firstSteps_accepted h hq hc
  have hlines : u.lines = Lines.bothHigh := bothHigh_of_firstSteps h.wellFormed hi hl hrun
  have hfault' : u.hostFault = false :=
    (ranOn_of_firstSteps _ _ hrun).hostFault.trans ((accept_hostFault s i _).trans hfault)
  exact ⟨_, exec_of_firstSteps h hrun, ⟨hfault', fun hung => hung.1 rfl, hlines ▸ .inl rfl⟩, hlines⟩

/-! The invariant. -/

/-- R30, R165: `CFG` holds what INIT writes. -/
def State.CfgAsInit (s : State) : Prop :=
  s.mstr = true ∧ s.msbf = true ∧ s.ainc = true ∧ s.ckdiv = Config.bitclkDiv

/-- The invariant inside a command with the bus steps `bs` still to run: the position, and a configuration that stands,
or is the next bus step (R24, R165). -/
structure RunInv (i : Instr) (bs : List BusStep) (u : State) : Prop where
  memory : u.env.memWf = true
  cmd : u.cmd = some i
  seq : u.seq + bs.length = i.busSteps
  busy : u.busy = false
  config : u.CfgAsInit ∨ ∃ as rest, bs = ⟨.cfgw, as⟩ :: rest
  strobe : u.strobe = false
  hasValue : u.hasValue = false

/-- R30: a bus step leaves a configuration that stands, or makes it. -/
theorem cfgAsInit_of_busStep {b : BusStep} (h : s.busStep b = .running t) (hc : s.CfgAsInit ∨ b.op = .cfgw) :
    t.CfgAsInit := by
  rcases running_cases h with ⟨-, rfl⟩ | ⟨d, v, hop, rfl⟩ | ⟨x, rx, e, hop, -, rfl⟩
  · simp [State.CfgAsInit]
  · simpa [State.CfgAsInit, hop] using hc
  · simpa [State.CfgAsInit, hop, State.exchanged] using hc

theorem runInv_of_busStep {b : BusStep} (hinv : RunInv i (b :: bs) s) (h : s.busStep b = .running t) :
    RunInv i bs t := by
  have hadv := advanced_of_busStep s t h
  have hseq := hinv.seq
  refine ⟨hadv.memWf hinv.memory, hadv.cmd.trans hinv.cmd, ?_, hadv.busy hinv.busy,
    .inl (cfgAsInit_of_busStep h ?_), hadv.strobe.trans hinv.strobe, hadv.hasValue.trans hinv.hasValue⟩
  · rw [hadv.seq]
    rw [List.length_cons] at hseq
    omega
  · exact hinv.config.imp_right fun ⟨as, rest, hbs⟩ => by rw [(List.cons.inj hbs).1]

/-- R24, R255: acceptance starts a run; a command other than INIT finds the configuration standing. -/
theorem runInv_accept (hinv : s.Inv) (h : s.Accepts i) : RunInv i (planOf i).steps (s.accept i (planOf i)) := by
  obtain ⟨hc, hw, hi⟩ := h
  refine ⟨(congrArg _ (accept_env s i _)).trans hinv.memory, accept_cmd s i _, ?_,
    (accept_busy s i _).trans (hinv.idle hc).2, ?_, accept_strobe s i _, accept_hasValue s i _⟩
  · rw [accept_seq, planOf_length hw, Nat.zero_add]
  · rcases hi with rfl | hconf
    · exact .inr ⟨_, _, rfl⟩
    · left
      simp only [State.configured, Bool.and_eq_true] at hconf
      have hcfg : s.CfgAsInit := by
        rcases hinv.config with ⟨hoff, -, -⟩ | ⟨hmstr, hmsbf, hainc, hckdiv⟩
        · rw [hconf.1.2] at hoff
          cases hoff
        · exact ⟨hmstr, hmsbf, hainc, hckdiv⟩
      simpa [State.CfgAsInit] using hcfg

theorem inv_complete {r : Reply} (h : RunInv i [] s) : (s.complete r).Inv where
  memory := h.memory
  idle := fun _ => ⟨rfl, h.busy⟩
  hung := fun _ hc => by cases hc
  config := .inr (h.config.resolve_right (by simp))
  initialised := fun _ => (h.config.resolve_right (by simp)).1
  completion := fun _ => rfl
  value := fun _ => rfl

theorem inv_takeReset (h : s.env.memWf = true) : s.takeReset.Inv where
  memory := (memWf_raiseLines s).trans h
  idle := fun _ => ⟨rfl, rfl⟩
  hung := fun _ hc => by cases hc
  config := .inl ⟨rfl, rfl, rfl⟩
  initialised := fun hi => by cases hi
  completion := fun _ => rfl
  value := fun hv => by cases hv

/-- R226: a command stuck in a transfer is hung before its last bus step. -/
theorem inv_stuckIn {x : TxByte} {as : List Assign} {e : Env} (hw : i.WellFormed)
    (h : RunInv i (⟨.xfer x, as⟩ :: bs) s) (ha : s.env.answer s.lines (x.value s) s.draws = ⟨none, e⟩) :
    (s.stuckIn x e).Inv where
  memory := by
    have hmem := memWf_answer s.lines (x.value s) s.draws s.env h.memory
    rwa [ha] at hmem
  idle := fun hc => by cases h.cmd.symm.trans hc
  hung := fun j hj => by
    cases h.cmd.symm.trans hj
    have hseq := h.seq
    rw [List.length_cons] at hseq
    exact ⟨rfl, hw, show s.seq < i.busSteps by omega⟩
  config := .inr (h.config.resolve_right (by simp))
  initialised := fun _ => (h.config.resolve_right (by simp)).1
  completion := fun hs => by cases h.strobe.symm.trans hs
  value := fun hv => by cases h.hasValue.symm.trans hv

/-- A bus step that does not run has met a reset or is stuck. -/
theorem inv_of_stopped {b : BusStep} (hw : i.WellFormed) (hinv : RunInv i (b :: bs) s)
    (h : s.busStep b = .stopped t) : t.Inv := by
  rcases stopped_cases h with rfl | ⟨x, e, hop, ha, rfl⟩
  · exact inv_takeReset hinv.memory
  · obtain ⟨op, as⟩ := b
    subst hop
    exact inv_stuckIn hw hinv ha

/-- The invariant is kept by the run of a command, whatever ends it. -/
theorem inv_of_exec (hinv : s.Inv) (h : s.Accepts i) (hx : exec i s = .next t) : t.Inv := by
  rw [exec_of_accepts s h, Host.Outcome.next.injEq] at hx
  rw [← hx]
  exact runSteps_rule (RunInv i) State.Inv _ (fun _ hr => inv_complete hr)
    (fun _ _ _ _ hr hb => runInv_of_busStep hr hb) (fun _ _ _ _ hr hb => inv_of_stopped h.wellFormed hr hb) _ _
    (runInv_accept hinv h)

theorem inv_wait (h : s.Inv) : s.wait.Inv where
  memory := h.memory
  idle := h.idle
  hung := h.hung
  config := h.config
  initialised := h.initialised
  completion := fun hs => by cases hs
  value := fun hv => by cases hv

theorem inv_take (h : s.Inv) (rest : List Word) : (s.take rest).Inv where
  memory := h.memory
  idle := h.idle
  hung := h.hung
  config := h.config
  initialised := h.initialised
  completion := h.completion
  value := h.value

theorem inv_takeIllegal (h : s.Inv) (hc : s.cmd = none) : s.takeIllegal.Inv where
  memory := h.memory
  idle := h.idle
  hung := h.hung
  config := h.config
  initialised := h.initialised
  completion := fun _ => hc
  value := fun hv => by cases hv

/-- Settles O45: each way a step can end keeps the invariant; a block that holds a command is hung, so it waits. -/
theorem stepKeepsInvariant : Obligations.StepKeepsInvariant := by
  intro s t hinv h
  rcases stepEnds h with ⟨-, rfl⟩ | ⟨i, -, hc, rfl⟩ | ⟨-, -, -, rfl⟩ | ⟨w, rest, -, hc, -, -, rfl⟩ |
    ⟨w, rest, i, -, -, -, -, ha, hx⟩
  · exact inv_takeReset hinv.memory
  · obtain ⟨hbusy, -, -⟩ := hinv.hung i hc
    rw [State.goOn, if_pos hbusy]
    exact inv_wait hinv
  · exact inv_wait hinv
  · exact inv_takeIllegal (inv_take hinv rest) hc
  · exact inv_of_exec (inv_take hinv rest) ha hx

/-- Settles O46: after reset the block is idle with `CFG` at its reset values. -/
theorem resetHasInvariant : Obligations.ResetHasInvariant where
  memory := rfl
  idle := fun _ => ⟨rfl, rfl⟩
  hung := fun _ hc => by cases hc
  config := .inl ⟨rfl, rfl, rfl⟩
  initialised := fun hi => by cases hi
  completion := fun _ => rfl
  value := fun hv => by cases hv

end Sys2Proof.Machine
end

section
/-! PROOFS. 41_register_protocol.md R163: what the block does on the bus is a function of what it had there, of its
configuration and of its descriptor, so that no answer of the environment enters it. -/

namespace Sys2Proof.Machine

variable {s t u : State} {i : Instr} {r : Reply} {bs cs pre : List BusStep}

/-- What decides the block's part of the bus: the byte sent last, the descriptor, the lines, the configuration, the
flags and the events without the bytes received. -/
structure BusView where
  txbuf : Byte
  td : Td
  lines : Lines
  config : CfgView
  busy : Bool
  ill : Bool
  shapes : List Event

def State.busView (s : State) : BusView := ⟨s.txbuf, s.td, s.lines, s.config, s.busy, s.ill, s.trace.map Event.shape⟩

/-- The byte a transfer sends, from the descriptor (30_encoding.md R103). -/
def TxByte.sent (td : Td) : TxByte → Byte
  | .addrByte => td.addrByte
  | .dataByte => td.dataByte
  | .given b => b

theorem value_eq_sent (x : TxByte) (s : State) : x.value s = x.sent s.td := by cases x <;> rfl

/-- One action, its transfer completing. -/
def BusView.act (w : BusView) : BusOp → BusView
  | .cfgw =>
    { w with
      config := ⟨true, true, Config.bitclkDiv, true, w.config.initd⟩
      shapes := w.shapes ++ [.cfgw true true Config.bitclkDiv true] }
  | .cs d v => { w with lines := w.lines.drive d v, shapes := w.shapes ++ [.cs d v] }
  | .xfer x => { w with txbuf := x.sent w.td, busy := false, shapes := w.shapes ++ [.xfer (x.sent w.td) 0] }

def BusView.assign (w : BusView) : Assign → BusView
  | .loadTd d bcm1 rw a v => { w with td := ⟨d, bcm1, w.config.ainc, rw, a, v⟩ }
  | .rdxLow => w
  | .rdxHigh => w
  | .setInitd => { w with config := { w.config with initd := true } }

def BusView.assigns (as : List Assign) (w : BusView) : BusView := as.foldl BusView.assign w

/-- Bus steps whose transfers all complete. -/
def BusView.run (bs : List BusStep) (w : BusView) : BusView := bs.foldl (fun w b => (w.act b.op).assigns b.after) w

theorem busView_assigns (as : List Assign) (s : State) : (s.assigns as).busView = s.busView.assigns as := by
  induction as generalizing s with
  | nil => rfl
  | cons a as ih =>
    rw [assigns_cons, ih]
    cases a <;> rfl

/-- R163: a bus step that completes does on the bus what the view says, whatever was received. -/
theorem busView_of_busStep {b : BusStep} (h : s.busStep b = .running t) :
    t.busView = (s.busView.act b.op).assigns b.after := by
  rcases running_cases h with ⟨hop, rfl⟩ | ⟨d, v, hop, rfl⟩ | ⟨x, rx, e, hop, -, rfl⟩ <;>
    rw [busView_assigns, hop] <;> congr 1
  · simp [State.busView, BusView.act, State.config, State.lines, Event.shape]
  · simp [State.busView, BusView.act, State.config, State.lines, Lines.drive, Event.shape]
  · simp [State.busView, BusView.act, State.config, State.lines, Event.shape, value_eq_sent, State.exchanged]

theorem busView_of_firstSteps (h : s.firstSteps bs = .running t) : t.busView = s.busView.run bs := by
  induction bs generalizing s with
  | nil => cases h; rfl
  | cons b bs ih =>
    rw [State.firstSteps] at h
    split at h
    next u hu => rw [ih h, busView_of_busStep hu]; rfl
    next => cases h

/-! The events. -/

theorem BusView.shapes_assigns (as : List Assign) (w : BusView) : (w.assigns as).shapes = w.shapes := by
  induction as generalizing w with
  | nil => rfl
  | cons a as ih => exact (ih _).trans (by cases a <;> rfl)

theorem BusView.shapes_prefix_run (bs : List BusStep) (w : BusView) : w.shapes <+: (w.run bs).shapes := by
  induction bs generalizing w with
  | nil => exact List.prefix_refl _
  | cons b bs ih =>
    refine List.IsPrefix.trans ?_ (ih _)
    rw [shapes_assigns]
    cases b.op <;> exact List.prefix_append _ _

theorem BusView.shapes_run_prefix (h : bs <+: cs) (w : BusView) : (w.run bs).shapes <+: (w.run cs).shapes := by
  obtain ⟨ds, rfl⟩ := h
  have happend : w.run (bs ++ ds) = (w.run bs).run ds := List.foldl_append
  rw [happend]
  exact shapes_prefix_run ds _

/-- The events of a run are those of its bus steps, as far as it goes. -/
theorem RunEnds.shapes (h : RunEnds r bs s t) :
    ∃ pre, pre <+: bs ∧ t.trace.map Event.shape = (s.busView.run pre).shapes := by
  rcases h with ⟨u, hrun, rfl⟩ | ⟨pre, b, post, u, x, e, hbs, hrun, -, -, rfl⟩
  · exact ⟨bs, List.prefix_refl _, congrArg BusView.shapes (busView_of_firstSteps hrun)⟩
  · exact ⟨pre, ⟨b :: post, hbs.symm⟩, congrArg BusView.shapes (busView_of_firstSteps hrun)⟩

/-- A run of a command at the end of which no command is held has completed. -/
theorem RunEnds.of_cmd_none (h : RunEnds r bs s t) (hc : s.cmd = some i) (hn : t.cmd = none) :
    ∃ u, s.firstSteps bs = .running u ∧ t = u.complete r := by
  rcases h with ⟨u, hrun, ht⟩ | ⟨pre, b, post, u, x, e, hbs, hrun, -, -, rfl⟩
  · exact ⟨u, hrun, ht⟩
  · cases ((ranOn_of_firstSteps _ _ hrun).cmd.trans hc).symm.trans hn

/-- A completed run leaves what the view of its start says. -/
theorem RunEnds.busView (h : RunEnds r bs s t) (hc : s.cmd = some i) (hn : t.cmd = none) :
    t.busView = s.busView.run bs := by
  obtain ⟨u, hrun, rfl⟩ := h.of_cmd_none hc hn
  have hview : u.busView = s.busView.run bs := busView_of_firstSteps hrun
  exact hview

theorem RunEnds.hasValue_eq (h : RunEnds r bs s t) (hc : s.cmd = some i) (hn : t.cmd = none) :
    t.hasValue = (s.complete r).hasValue := by
  obtain ⟨u, -, rfl⟩ := h.of_cmd_none hc hn
  rfl

/-- R163: the environment and the draw counter are no part of the view. -/
theorem busView_accept_env (s : State) (e : Env) (n : Nat) (i : Instr) :
    (({ s with env := e, draws := n } : State).accept i (planOf i)).busView = (s.accept i (planOf i)).busView := by
  cases i <;> rfl

/-- Settles O44: both runs are runs of the same bus steps from the same view. -/
theorem answersDoNotChangeTheBusSequence : Obligations.AnswersDoNotChangeTheBusSequence := by
  intro i s t u e n h hq hx hx'
  have hrun := runEnds_of_exec h hq hx
  have hrun' := runEnds_of_exec (s := { s with env := e, draws := n }) h hq hx'
  have hview := busView_accept_env s e n i
  refine ⟨?_, fun ht hu => ?_⟩
  · obtain ⟨p, hp, hshapes⟩ := hrun.shapes
    obtain ⟨p', hp', hshapes'⟩ := hrun'.shapes
    rw [hshapes, hshapes', hview]
    exact (List.prefix_or_prefix_of_prefix hp hp').imp (BusView.shapes_run_prefix · _) (BusView.shapes_run_prefix · _)
  · have hsame : t.busView = u.busView := by
      rw [hrun.busView (accept_cmd s i _) ht, hrun'.busView (accept_cmd _ i _) hu, hview]
    have hvalue : t.hasValue = u.hasValue :=
      (hrun.hasValue_eq (accept_cmd s i _) ht).trans (hrun'.hasValue_eq (accept_cmd _ i _) hu).symm
    simp only [State.busView, State.config, BusView.mk.injEq, CfgView.mk.injEq] at hsame
    obtain ⟨htxbuf, htd, hlines, ⟨hmstr, hmsbf, hckdiv, hainc, hinitd⟩, hbusy, hill, htrace⟩ := hsame
    exact ⟨htrace, htxbuf, hlines, htd, by simp only [State.cfgWord, hmstr, hmsbf, hckdiv, hainc],
      by simp only [State.statusWord, hbusy, hinitd, hill], hvalue⟩

/-! The word of a register command and its frame (30_encoding.md R118). -/

/-- A command whose transfers complete leaves the events of its plan. -/
theorem shapes_of_exec (h : s.Accepts i) (hq : s.quietFor i.busSteps = true)
    (hc : s.env.completes i.transfers s.draws = true) (hx : exec i s = .next t) :
    t.trace.map Event.shape = ((s.accept i (planOf i)).busView.run (planOf i).steps).shapes := by
  obtain ⟨u, hrun⟩ := firstSteps_accepted h hq hc
  rw [exec_of_firstSteps h hrun] at hx
  cases hx
  exact congrArg BusView.shapes (busView_of_firstSteps hrun)

/-- R160: the events of a write frame. -/
theorem BusView.shapes_writeFrame (w : BusView) (d : Device) : (w.run (writeFrame d [])).shapes =
    w.shapes ++ [.cs d .low, .xfer w.td.addrByte 0, .xfer w.td.dataByte 0, .cs d .high] := by
  simp [run, act, assigns, writeFrame, TxByte.sent]

/-- R161: the events of a read frame. -/
theorem BusView.shapes_readFrame (w : BusView) (d : Device) (bc : Nat) : (w.run (readFrame d bc)).shapes =
    w.shapes ++ [.cs d .low, .xfer w.td.addrByte 0, .xfer w.td.dataByte 0] ++
      (if bc = 2 then [.xfer dummy 0] else []) ++ [.cs d .high] := by
  unfold readFrame
  split <;> simp [run, act, assigns, assign, TxByte.sent]

theorem ofNat_eq_writeByte (a : Addr) : BitVec.ofNat 8 a.toNat = writeByte a := by
  apply BitVec.eq_of_toNat_eq
  rw [writeByte_toNat, BitVec.toNat_ofNat]
  omega

theorem ofNat_eq_readByte (a : Addr) : BitVec.ofNat 8 (128 + a.toNat) = readByte a := by
  apply BitVec.eq_of_toNat_eq
  rw [readByte_toNat, BitVec.toNat_ofNat]
  omega

/-- The second byte of a word is `RW` and `ADDR` (R111). -/
theorem slice_addrByte (w : Word) : slice w 15 8 = slice w 15 15 * 128 + slice w 14 8 := by
  simp only [slice_eq]
  omega

/-- R111: the fields of the word of WRREG. -/
theorem slices_wrreg (d : Device) (a : Addr) (v : Byte) :
    slice (encode (.wrreg d a v)) 16 16 = d.code ∧ slice (encode (.wrreg d a v)) 15 8 = a.toNat ∧
    slice (encode (.wrreg d a v)) 7 0 = v.toNat ∧ slice (encode (.wrreg d a v)) 15 15 = 0 := by
  obtain ⟨-, -, -, hdev, hrw, haddr, hlow⟩ := slices_wordOf (op := 5) (bcm1 := 0) (dev := d.code) (rw := 0)
    (addr := a.toNat) (low := v.toNat) (by omega) (by omega) d.code_lt_two (by omega) a.isLt v.isLt
  simp [slice_addrByte, encode, hdev, hrw, haddr, hlow]

/-- R111: the fields of the word of RDREG. -/
theorem slices_rdreg {bc : Nat} (hbc : LegalByteCount bc) (d : Device) (a : Addr) :
    slice (encode (.rdreg d a bc)) 16 16 = d.code ∧ slice (encode (.rdreg d a bc)) 15 8 = 128 + a.toNat ∧
    slice (encode (.rdreg d a bc)) 7 0 = 0 ∧ slice (encode (.rdreg d a bc)) 15 15 = 1 ∧
    slice (encode (.rdreg d a bc)) 17 17 = bc - 1 := by
  obtain ⟨-, -, hbcm1, hdev, hrw, haddr, hlow⟩ := slices_wordOf (op := 5) (bcm1 := bc - 1) (dev := d.code) (rw := 1)
    (addr := a.toNat) (low := 0) (by omega) (by omega) d.code_lt_two (by omega) a.isLt (by omega)
  simp [slice_addrByte, encode, hdev, hrw, haddr, hlow, hbcm1]

theorem planWrreg_steps (d : Device) (a : Addr) (v : Byte) : (planWrreg d a v).steps = writeFrame d [] := rfl

theorem planRdreg_steps (d : Device) (a : Addr) (bc : Nat) : (planRdreg d a bc).steps = readFrame d bc := rfl

/-- Settles O8: the fields of the word are the operands, and the frame sends what the descriptor made of them says. -/
theorem registerWordMirrorsWireBytes : Obligations.RegisterWordMirrorsWireBytes := by
  intro w i s t hd hop h hq hc hx
  have hw := encode_of_decode hd
  have hwf := wellFormed_of_decode hd
  rcases decode_op_cases hd with ⟨h', -⟩ | ⟨h', -⟩ | ⟨h', -⟩ | ⟨h', -⟩ |
    ⟨-, ⟨-, d, a, v, rfl⟩ | ⟨-, d, a, bc, rfl⟩⟩ | ⟨h', -⟩
  · omega
  · omega
  · omega
  · omega
  · obtain ⟨hdev, haddr, hlow, hrw⟩ := slices_wrreg d a v
    have hshapes := shapes_of_exec h (quietFor_mono s hq (by simp [Instr.busSteps]))
      (completes_mono hc (by simp [Instr.transfers])) hx
    rw [hshapes, ← hw, hdev, haddr, hlow, hrw, ofCode_code, ofNat_eq_writeByte, BitVec.ofNat_toNat]
    simp [planOf, planWrreg_steps, BusView.shapes_writeFrame, State.busView]
  · obtain ⟨hdev, haddr, hlow, hrw, hbcm1⟩ := slices_rdreg hwf d a
    have hbc : bc = 1 ∨ bc = 2 := hwf
    have hcount : bc - 1 = 1 ↔ bc = 2 := by omega
    have hshapes := shapes_of_exec h (quietFor_mono s hq (by simp [Instr.busSteps]; omega))
      (completes_mono hc (by simp [Instr.transfers]; omega)) hx
    rw [hshapes, ← hw, hdev, haddr, hlow, hrw, hbcm1, ofCode_code, ofNat_eq_readByte]
    simp [planOf, planRdreg_steps, BusView.shapes_readFrame, State.busView, hcount, dummy]
  · omega

end Sys2Proof.Machine
end

section
/-! PROOFS. 10_state.md R32, 30_encoding.md R101, 40_transport.md R144 and 42_accessors_scaling.md R193 to R197: the
bytes of a descriptor, the bits of a transfer, the assembler and the scaling engine. -/

namespace Sys2Proof.Machine

/-! The descriptor and the bytes on the wire. -/

/-- R101: the address byte of a read. -/
theorem readByte_fields (a : Addr) : (readByte a).msb = true ∧ (readByte a).setWidth 7 = a ∧
    (wireBits (readByte a)).head? = some true := by
  revert a
  decide

/-- R101: the address byte of a write. -/
theorem writeByte_fields (a : Addr) : (writeByte a).msb = false ∧ (writeByte a).setWidth 7 = a ∧
    (wireBits (writeByte a)).head? = some false := by
  revert a
  decide

/-- R101, R103: the address byte of a descriptor. -/
theorem Td.addrByte_eq (td : Td) : td.addrByte = if td.rw then readByte td.addr else writeByte td.addr := by
  obtain ⟨d, bcm1, ainc, rw, a, v⟩ := td
  cases rw with
  | true => exact addrByte_read d bcm1 ainc a v
  | false => exact addrByte_write d bcm1 ainc a v

/-- Settles O6: the two address bytes bit by bit, and the descriptor's is one of them. -/
theorem addressByteHoldsReadFlag : Obligations.AddressByteHoldsReadFlag := by
  refine ⟨fun a => ?_, Td.addrByte_eq⟩
  obtain ⟨hrmsb, hraddr, hrwire⟩ := readByte_fields a
  obtain ⟨hwmsb, hwaddr, hwwire⟩ := writeByte_fields a
  exact ⟨hrmsb, hraddr, rfl, hwmsb, hwaddr, hrwire, hwwire⟩

/-- R32: the flags, the device and the address stand at their bits, each field being smaller than the next one's place.
-/
theorem Td.slices_word (td : Td) : slice td.word 18 18 = td.dev.code ∧ slice td.word 17 17 = flagBit td.bcm1 ∧
    slice td.word 16 16 = flagBit td.ainc ∧ slice td.word 15 15 = flagBit td.rw ∧
    slice td.word 14 8 = td.addr.toNat := by
  have hdev := Device.code_lt td.dev
  have hbcm1 := flagBit_lt td.bcm1
  have hainc := flagBit_lt td.ainc
  have hrw := flagBit_lt td.rw
  have haddr := td.addr.isLt
  have hdata := td.data.isLt
  simp only [slice, Td.word_toNat]
  omega

/-- Settles O7: the fields of the descriptor's word, and the two bytes it gives. -/
theorem descriptorBitsAreTheWireBytes : Obligations.DescriptorBitsAreTheWireBytes := by
  intro td
  obtain ⟨hdev, hbcm1, hainc, hrw, haddr⟩ := td.slices_word
  exact ⟨by rw [hdev, Device.ofCode_code], hbcm1, hainc, hrw, haddr, td.slice_word_data, td.slice_word_addrByte,
    td.slice_word_data⟩

/-! The bits of a transfer. -/

/-- R144: the levels of a byte sampled are the levels it was sampled from. -/
theorem wireBits_sampleBits (b0 b1 b2 b3 b4 b5 b6 b7 : Bool) :
    wireBits (sampleBits [b0, b1, b2, b3, b4, b5, b6, b7]) = [b0, b1, b2, b3, b4, b5, b6, b7] := by
  revert b0 b1 b2 b3 b4 b5 b6 b7
  decide

/-- R144: the level in the `k`-th bit time is bit `7 - k`. -/
theorem wireBits_getElem? (b : Byte) {k : Nat} (hk : k < 8) : (wireBits b)[k]? = some (b.getLsbD (7 - k)) := by
  interval_cases k <;> rfl

/-- Settles O22: sampling is the inverse of driving, so its bits are the levels of the byte it gives. -/
theorem mostSignificantBitFirst : Obligations.MostSignificantBitFirst := by
  refine ⟨fun _ => rfl, fun b k hk => wireBits_getElem? b hk, fun bits k hlen hk => ?_⟩
  match bits, hlen with
  | [b0, b1, b2, b3, b4, b5, b6, b7], _ => rw [← wireBits_getElem? _ hk, wireBits_sampleBits]

/-- Settles O25: the two stages are the assembly of two bytes, whose value is that of the bytes one after the other. -/
theorem assemblerIsLittleEndian : Obligations.AssemblerIsLittleEndian :=
  ⟨fun _ _ => rfl, fun _ _ => rfl, highStage_lowStage, assemble_two_toNat⟩

/-! The scaling engine. -/

section scaling

variable (k : ScaleKind) (raw : Half)

theorem ScaleKind.num_le : k.num ≤ 875 := by cases k <;> decide

/-- R194: the product of a raw value lies between those of -32768 and 32768 by 875. -/
theorem product_bounds : -28672000 ≤ product k raw ∧ product k raw ≤ 28672000 := by
  obtain ⟨hlo, hhi⟩ := product_mem_Icc (k := k) (sint16_bounds raw)
  have hnum := k.num_le
  omega

/-- R196: the result keeps the low 16 bits of the quotient. -/
theorem scale_toNat : ((scale k raw).toNat : Int) = quotient k raw % 65536 := by
  rw [scale, narrow, BitVec.toNat_ofInt]
  exact Int.toNat_of_nonneg (Int.emod_nonneg _ (by decide))

/-- R197: only the gyroscope's quotient can leave 16 bits. -/
theorem quotient_mem_Icc_of_ne_gyr {k : ScaleKind} (hk : k ≠ .gyr) (raw : Half) :
    quotient k raw ∈ Set.Icc (-32768) 32767 := by
  cases k with
  | acc => exact Set.Icc_subset_Icc (by decide) (by decide) (quotient_acc_mem_Icc raw)
  | gyr => exact absurd rfl hk
  | mag => exact Set.Icc_subset_Icc (by decide) (by decide) (quotient_mag_mem_Icc raw)
  | tmp => exact Set.Icc_subset_Icc (by decide) (by decide) (quotient_tmp_mem_Icc raw)

/-! The gyroscope (R185 to R187, R197): 875/100 is 35/4, so the quotient leaves 16 bits above 3744 and below -3745. -/

theorem quotient_gyr_mem_Icc : quotient .gyr raw ∈ Set.Icc (-286720) 286711 :=
  quotient_mem_Icc (sint16_bounds raw) (by decide) (by decide) (by decide) (by decide)

/-- R197: the raw values whose quotient fits 16 bits, and the range of those quotients. -/
theorem quotient_gyr_mem_Icc_of_raw (h : -3745 ≤ sint16 raw ∧ sint16 raw ≤ 3744) :
    quotient .gyr raw ∈ Set.Icc (-32768) 32760 :=
  quotient_mem_Icc (Set.mem_Icc.mpr h) (by decide) (by decide) (by decide) (by decide)

/-- R195: a product of at least `n` denominators, `n` positive, has a quotient of at least `n`. -/
theorem le_quotient {n : Int} (hn : 0 ≤ n) (h : n * k.den ≤ product k raw) : n ≤ quotient k raw := by
  have hp : 0 ≤ product k raw := (Int.mul_nonneg hn k.den_pos.le).trans h
  rw [quotient_of_nonneg k raw hp]
  exact Int.le_ediv_of_mul_le k.den_pos h

theorem quotient_le {n : Int} (hn : n ≤ 0) (h : product k raw ≤ n * k.den) : quotient k raw ≤ n := by
  have hp : product k raw ≤ 0 := h.trans (Int.mul_nonpos_of_nonpos_of_nonneg hn k.den_pos.le)
  have hq : -n ≤ -product k raw / k.den := Int.le_ediv_of_mul_le k.den_pos (by rw [Int.neg_mul]; omega)
  rw [quotient_of_nonpos k raw hp]
  omega

/-- R197: the quotient fits 16 bits exactly for raw -3745 to 3744. -/
theorem quotient_gyr_fits_iff : -32768 ≤ quotient .gyr raw ∧ quotient .gyr raw ≤ 32767 ↔
    -3745 ≤ sint16 raw ∧ sint16 raw ≤ 3744 := by
  refine ⟨fun ⟨hlo, hhi⟩ => ⟨?_, ?_⟩, fun h => ?_⟩
  · by_contra hraw
    have hq : quotient .gyr raw ≤ -32777 := quotient_le .gyr raw (by decide) (by
      show sint16 raw * 875 ≤ -32777 * 100
      omega)
    omega
  · by_contra hraw
    have hq : 32768 ≤ quotient .gyr raw := le_quotient .gyr raw (by decide) (by
      show 32768 * 100 ≤ sint16 raw * 875
      omega)
    omega
  · obtain ⟨hlo, hhi⟩ := quotient_gyr_mem_Icc_of_raw raw h
    omega

/-- R196: the result is the quotient exactly where the quotient fits 16 bits. -/
theorem scale_toInt_eq_iff : (scale k raw).toInt = quotient k raw ↔
    -32768 ≤ quotient k raw ∧ quotient k raw ≤ 32767 := by
  refine ⟨fun h => ?_, scale_toInt⟩
  obtain ⟨hlo, hhi⟩ := sint16_bounds (scale k raw)
  rw [← h]
  exact ⟨hlo, hhi⟩

/-- R197: the raw values that scale to 0. -/
theorem quotient_eq_zero {k : ScaleKind} {raw : Half} {l u : Int} (h : sint16 raw ∈ Set.Icc l u)
    (hl : -k.den < l * k.num) (hu : u * k.num < k.den) : quotient k raw = 0 := by
  obtain ⟨hlo, hhi⟩ : quotient k raw ∈ Set.Icc 0 0 := quotient_mem_Icc h le_rfl le_rfl (by omega) (by omega)
  omega

end scaling

/-- Settles O32: the product's bounds, and the sign of the raw value under a positive numerator. -/
theorem productIsExact : Obligations.ProductIsExact := by
  intro k raw
  obtain ⟨hlo, hhi⟩ := product_bounds k raw
  refine ⟨rfl, hlo, hhi, by decide, ?_, fun h => Int.mul_pos h k.num_pos,
    fun h => Int.mul_neg_of_neg_of_pos h k.num_pos⟩
  rintro rfl
  exact Int.zero_mul _

/-- Settles O34: the result is the quotient modulo 65536, and where that fits 16 bits the quotient itself. -/
theorem narrowingWraps : Obligations.NarrowingWraps := by
  refine fun k raw => ⟨fun hlo hhi => scale_toInt ⟨hlo, hhi⟩, scale_toNat k raw, fun hout => ?_⟩
  by_contra hk
  obtain ⟨hlo, hhi⟩ := quotient_mem_Icc_of_ne_gyr hk raw
  omega

/-- Settles O28: each command makes the read of its row, and 3745 * 875 is the first product past 32767 * 100. -/
theorem angularRateAccessors : Obligations.AngularRateAccessors :=
  ⟨by decide, by decide, by decide, readsScaled_of_plan rfl, readsScaled_of_plan rfl, readsScaled_of_plan rfl,
    fun raw => (scale_toInt_eq_iff .gyr raw).trans (quotient_gyr_fits_iff raw), quotient_gyr_fits_iff, scale_toNat .gyr⟩

/-- Settles O35: the ranges of the four kinds, and the corner values computed. -/
theorem scalingRanges : Obligations.ScalingRanges := by
  refine ⟨fun raw => ?_, by decide, by decide, fun raw => ?_, by decide, by decide, by decide, by decide, by decide,
    by decide, by decide, by decide, fun raw => ?_, fun raw => ?_⟩
  · obtain ⟨hlo, hhi⟩ := quotient_acc_mem_Icc raw
    exact ⟨hlo, hhi, fun h => quotient_eq_zero (Set.mem_Icc.mpr h) (by decide) (by decide)⟩
  · obtain ⟨hlo, hhi⟩ := quotient_gyr_mem_Icc raw
    exact ⟨hlo, hhi, quotient_gyr_fits_iff raw, quotient_gyr_mem_Icc_of_raw raw⟩
  · obtain ⟨hlo, hhi⟩ := quotient_mag_mem_Icc raw
    exact ⟨hlo, hhi, fun h => quotient_eq_zero (Set.mem_Icc.mpr h) (by decide) (by decide)⟩
  · obtain ⟨hlo, hhi⟩ := quotient_tmp_mem_Icc raw
    exact ⟨hlo, hhi, fun h => quotient_eq_zero (Set.mem_Icc.mpr h) (by decide) (by decide)⟩

end Sys2Proof.Machine
end

section
/-! PROOFS. 42_accessors_scaling.md R180, 30_encoding.md R121 and 41_register_protocol.md R165: the accessor table
against the register map, commands with one trace, and the script of INIT. -/

namespace Sys2Proof.Machine

variable {s t u : State} {i : Instr} {r : Reply} {d : Device} {a : Addr} {e e' : Env} {n : Nat}

/-! The accessor table. -/

/-- R180, R199: a scaled accessor is the 2-byte read of its row, scaled. -/
theorem planOf_of_acctab {row : AccessorRow} (h : acctab i = some row) :
    planOf i = scaledRead row.dev row.addr row.kind := by
  cases i <;> cases h <;> rfl

/-- Settles O51: the tables computed, and the plan of every row. -/
theorem tablesFollowTheRegisterMap : Obligations.TablesFollowTheRegisterMap := by
  refine ⟨by decide, by decide, ?_, fun _ _ h => planOf_of_acctab h, fun _ => rfl, by decide, by decide, rfl, rfl⟩
  decide

/-! One frame, many commands. -/

/-- R226: where its transfers complete, the environment answers a frame. -/
theorem frameAnswers_of_completes {txs : List Byte} (d : Device) (hc : s.env.completes txs.length s.draws = true) :
    ∃ rxs e, s.frameAnswers d txs = some (rxs, e) ∧ rxs.length = txs.length := by
  have hsome : (s.frameAnswers d txs).isSome = true := by
    rw [State.frameAnswers, answers_isSome, completes_onCs, hc]
  obtain ⟨⟨rxs, e⟩, hans⟩ := Option.isSome_iff_exists.mp hsome
  exact ⟨rxs, e, hans, answers_length _ _ _ hans⟩

theorem frameAnswers_two_of_completes (tx1 tx2 : Byte) (d : Device) (hc : s.env.completes 2 s.draws = true) :
    ∃ x y e, s.frameAnswers d [tx1, tx2] = some ([x, y], e) := by
  obtain ⟨rxs, e, hans, hlen⟩ := frameAnswers_of_completes (txs := [tx1, tx2]) d hc
  match rxs, hlen with
  | [x, y], _ => exact ⟨x, y, e, hans⟩

theorem frameAnswers_three_of_completes (tx1 tx2 tx3 : Byte) (d : Device) (hc : s.env.completes 3 s.draws = true) :
    ∃ x y z e, s.frameAnswers d [tx1, tx2, tx3] = some ([x, y, z], e) := by
  obtain ⟨rxs, e, hans, hlen⟩ := frameAnswers_of_completes (txs := [tx1, tx2, tx3]) d hc
  match rxs, hlen with
  | [x, y, z], _ => exact ⟨x, y, z, e, hans⟩

/-- A state that accepts a scaled accessor accepts every read. -/
theorem accepts_rdreg_two {row : AccessorRow} (h : s.Accepts i) (hrow : acctab i = some row) (d : Device) (a : Addr) :
    s.Accepts (.rdreg d a 2) := by
  obtain ⟨hc, -, hi⟩ := h
  have hne : i ≠ .init := ne_of_acctab_isSome (by rw [hrow]; rfl) rfl
  exact ⟨hc, .inr rfl, .inr (hi.resolve_left hne)⟩

/-- Settles O36: both commands make the one frame, and only the response differs. -/
theorem accessorIsScaledRdreg : Obligations.AccessorIsScaledRdreg := by
  intro i row s hrow h hq hc
  obtain ⟨x, lo, hi, e, hans⟩ := frameAnswers_three_of_completes (readByte row.addr) dummy dummy row.dev hc
  exact ⟨_, _, readsScaled_of_plan (planOf_of_acctab hrow) s x lo hi e h hq hans,
    exec_rdreg_two_answered (accepts_rdreg_two h hrow _ _) hq hans, rfl, rfl, rfl, rfl, rfl⟩

/-- The state after XFER of `b`, answered `rx` (R143). -/
def State.xferred (b rx : Byte) (e : Env) (s : State) : State :=
  Expect.finished 1 true
    { s with
      txbuf := b, rxbuf := rx, busy := false, res := rx.setWidth 16, trace := s.trace ++ [.xfer b rx], env := e,
      draws := s.draws + 1 }

/-- The block takes the next command, and no reset comes for `n` ticks: what each command of a hand-built frame leaves.
-/
structure ReadyFor (n : Nat) (s : State) : Prop where
  cmd : s.cmd = none
  configured : s.configured = true
  quiet : s.quietFor n = true

theorem ReadyFor.accepts (h : ReadyFor n s) (hw : i.WellFormed) : s.Accepts i := ⟨h.cmd, hw, .inr h.configured⟩

theorem ReadyFor.quietFor_one (h : ReadyFor (n + 1) s) : s.quietFor 1 = true := quietFor_mono s h.quiet (by omega)

/-- R141, R142: SEL or DESEL in such a state. -/
theorem ReadyFor.exec_drive {v : Level} (h : ReadyFor (n + 1) s) (hp : planOf i = ⟨[], [⟨.cs d v, []⟩], .noValue⟩)
    (hw : i.WellFormed) : exec i s = .next (Expect.finished 1 false (Expect.driven d v s)) ∧
      ReadyFor n (Expect.finished 1 false (Expect.driven d v s)) :=
  ⟨exec_of_drivePlan hp (h.accepts hw) h.quietFor_one, rfl, h.configured, quietFor_of_resets s _ h.quiet rfl⟩

/-- R143: XFER in such a state. -/
theorem ReadyFor.exec_xfer {b rx : Byte} (h : ReadyFor (n + 1) s) (ha : s.env.answer s.lines b s.draws = ⟨some rx, e⟩) :
    exec (.xfer b) s = .next (s.xferred b rx e) ∧ ReadyFor n (s.xferred b rx e) :=
  ⟨exec_xfer_answered (h.accepts trivial) h.quietFor_one ha, rfl, h.configured, quietFor_of_resets s _ h.quiet rfl⟩

/-- Settles O37: the four commands one after the other make the four bus steps of WRREG. -/
theorem handBuiltFrameHasTheTraceOfWrreg : Obligations.HandBuiltFrameHasTheTraceOfWrreg := by
  intro d a v s h hq hc
  obtain ⟨hcmd, -, hi⟩ := id h
  have hready : ReadyFor 4 s := ⟨hcmd, hi.resolve_left (by simp), hq⟩
  obtain ⟨x, y, e, hans⟩ := frameAnswers_two_of_completes (writeByte a) v d hc
  obtain ⟨e1, hx, hans'⟩ := answers_cons hans
  obtain ⟨e2, hy, hnil⟩ := answers_cons hans'
  obtain ⟨-, rfl⟩ := answers_nil hnil
  obtain ⟨hsel, hready⟩ := hready.exec_drive (i := .sel d) rfl trivial
  obtain ⟨hxfer, hready⟩ := hready.exec_xfer hx
  obtain ⟨hxfer', hready⟩ := hready.exec_xfer hy
  obtain ⟨hdesel, -⟩ := hready.exec_drive (i := .desel d) rfl trivial
  refine ⟨_, _, _, _, _, hsel, hxfer, hxfer', hdesel, exec_wrreg_answered h hq hans, ?_, rfl, ?_, rfl, rfl, rfl⟩
  · simp [Expect.finished, Expect.driven, Expect.written, State.xferred]
  · cases d <;> rfl

end Sys2Proof.Machine
end

section
/-! PROOFS. 41_register_protocol.md R165 and R166: the script of INIT, one write frame after the other. -/

namespace Sys2Proof.Machine

variable {s t u : State} {r : Reply} {l : Lines} {e e' : Env} {n : Nat} {x : ScriptEntry} {xs : List ScriptEntry}
  {rxs : List Byte}

/-! What the environment answers to the writes of a script. -/

/-- The environment answers the transfers of the script's frames with `rxs`, and is `e'` after the last one; the lines
are at `l` and the next draw has the number `n`. -/
inductive ScriptAnswered : List ScriptEntry → Lines → Nat → Env → List Byte → Env → Prop
  | nil (l : Lines) (n : Nat) (e : Env) : ScriptAnswered [] l n e [] e
  | cons (x : ScriptEntry) (xs : List ScriptEntry) (l : Lines) (n : Nat) (e e1 e' : Env) (y z : Byte) (rxs : List Byte)
      (hframe : (e.onCs l x.dev .low).answers (l.drive x.dev .low) [writeByte x.addr, x.data] n = some ([y, z], e1))
      (hrest : ScriptAnswered xs (l.drive x.dev .high) (n + 2) (e1.onCs (l.drive x.dev .low) x.dev .high) rxs e') :
      ScriptAnswered (x :: xs) l n e (y :: z :: rxs) e'

theorem ScriptAnswered.length (h : ScriptAnswered xs l n e rxs e') : rxs.length = 2 * xs.length := by
  induction h with
  | nil => rfl
  | cons => simp only [List.length_cons]; omega

/-- After a run of transfers that completed, the ones still to come complete where all of them do. -/
theorem completes_of_answers {txs : List Byte} {k : Nat} (h : e.answers l txs n = some (rxs, e'))
    (hc : e.completes (txs.length + k) n = true) : e'.completes k (n + txs.length) = true := by
  induction txs generalizing e n rxs with
  | nil =>
    obtain ⟨-, rfl⟩ := answers_nil h
    simpa using hc
  | cons tx txs ih =>
    obtain ⟨rx, rxs, rfl⟩ : ∃ rx rxs', rxs = rx :: rxs' :=
      List.exists_cons_of_length_eq_add_one (answers_length _ _ _ h)
    obtain ⟨e1, h1, h'⟩ := answers_cons h
    rw [List.length_cons, Nat.add_right_comm, completes_succ l tx, h1] at hc
    have hrest := ih h' (by simpa using hc)
    rwa [List.length_cons, Nat.add_comm txs.length 1, ← Nat.add_assoc]

/-- R226: where two transfers complete for each write, the environment answers the script. -/
theorem scriptAnswered_of_completes (hc : e.completes (2 * xs.length) n = true) :
    ∃ rxs e', ScriptAnswered xs l n e rxs e' := by
  induction xs generalizing l n e with
  | nil => exact ⟨[], e, .nil l n e⟩
  | cons x xs ih =>
    have hc' : (e.onCs l x.dev .low).completes (2 + 2 * xs.length) n = true := by
      rw [completes_onCs, ← hc]
      congr 1
      rw [List.length_cons]
      omega
    have htwo : (e.onCs l x.dev .low).completes 2 n = true := completes_mono hc' (by omega)
    obtain ⟨⟨ys, e1⟩, hans⟩ := Option.isSome_iff_exists.mp
      ((answers_isSome (l.drive x.dev .low) n _ [writeByte x.addr, x.data]).trans htwo)
    match ys, answers_length _ _ _ hans with
    | [y, z], _ =>
      obtain ⟨rxs, e', hrest⟩ := ih (l := l.drive x.dev .high) (n := n + 2)
        (e := e1.onCs (l.drive x.dev .low) x.dev .high) (by
          rw [completes_onCs]
          exact completes_of_answers (k := 2 * xs.length) hans hc')
      exact ⟨_, _, .cons x xs l n e e1 e' y z rxs hans hrest⟩

/-- R70: the bytes the environment lists are the answers. -/
theorem scriptAnswered_of_listed (rest : List (Option Byte)) (hlen : rxs.length = 2 * xs.length) :
    ScriptAnswered xs l n (.unconstrained (rxs.map some ++ rest)) rxs (.unconstrained rest) := by
  induction xs generalizing l n rxs with
  | nil =>
    obtain rfl := List.length_eq_zero_iff.mp hlen
    exact .nil _ _ _
  | cons x xs ih =>
    match rxs, hlen with
    | y :: z :: rxs, hlen =>
      exact .cons x xs l n _ _ _ y z rxs rfl (ih (by simp only [List.length_cons] at hlen; omega))

/-! The run of the script. -/

/-- R166: the events of the script's frames. -/
def scriptEvents : List ScriptEntry → List Byte → List Event
  | x :: xs, y :: z :: rxs =>
    [.cs x.dev .low, .xfer (writeByte x.addr) y, .xfer x.data z, .cs x.dev .high] ++ scriptEvents xs rxs
  | _, _ => []

/-- R160: the descriptor of one write of the script. -/
def ScriptEntry.td (ainc : Bool) (x : ScriptEntry) : Td := ⟨x.dev, false, ainc, false, x.addr, x.data⟩

/-- The state after the frames of the script that begins with `x` (R165). -/
def State.scripted (x : ScriptEntry) (xs : List ScriptEntry) (rxs : List Byte) (e : Env) (s : State) : State :=
  { s with
    txbuf := (xs.getLastD x).data
    rxbuf := rxs.getLastD s.rxbuf
    busy := false
    agN := (s.lines.after (scriptEvents (x :: xs) rxs)).ag
    mN := (s.lines.after (scriptEvents (x :: xs) rxs)).m
    initd := true
    td := (xs.getLastD x).td s.ainc
    trace := s.trace ++ scriptEvents (x :: xs) rxs
    seq := s.seq + 4 * (xs.length + 1)
    resets := tickBy (4 * (xs.length + 1)) s.resets
    env := e
    draws := s.draws + 2 * (xs.length + 1) }

/-- R160: one frame of the script, the descriptor of its write standing. -/
theorem runSteps_scriptFrame (as : List Assign) (bs : List BusStep) {y z : Byte} (htd : s.td = x.td s.ainc)
    (hq : s.quietFor 4 = true)
    (hframe : (s.env.onCs s.lines x.dev .low).answers (s.lines.drive x.dev .low) [writeByte x.addr, x.data] s.draws =
      some ([y, z], e)) :
    s.runSteps r (writeFrame x.dev as ++ bs) =
      ((s.framed x.dev [writeByte x.addr, x.data] [y, z] x.data z e).assigns as).runSteps r bs := by
  have hrun := runSteps_writeFrame s x.dev as bs r (x := y) (y := z) (e := e) hq (by
    rw [htd, ScriptEntry.td, addrByte_write, dataByte_mk]
    exact hframe)
  rwa [htd, ScriptEntry.td, addrByte_write, dataByte_mk] at hrun

/-- R29: a frame leaves its line high and the other as it was. -/
theorem after_frame (l : Lines) (d : Device) (tx1 rx1 tx2 rx2 : Byte) (es : List Event) :
    l.after (.cs d .low :: .xfer tx1 rx1 :: .xfer tx2 rx2 :: .cs d .high :: es) = (l.drive d .high).after es := by
  cases d <;> rfl

/-- R165: the run of the script where the environment answers it. -/
theorem runSteps_scriptSteps (h : ScriptAnswered (x :: xs) s.lines s.draws s.env rxs e)
    (htd : s.td = x.td s.ainc) (hq : s.quietFor (4 * (xs.length + 1)) = true) :
    s.runSteps r (scriptSteps (x :: xs)) = (s.scripted x xs rxs e).complete r := by
  induction xs generalizing x s rxs with
  | nil =>
    cases h with | cons _ _ _ _ _ _ _ y z _ hframe hrest => ?_
    cases hrest
    have hrun := runSteps_scriptFrame (r := r) [.setInitd] [] htd hq hframe
    rw [List.append_nil] at hrun
    rw [scriptSteps, hrun, runSteps_nil]
    congr 1
    simp [State.scripted, State.framed, scriptEvents, after_frame, Lines.after, Lines.drive, State.assign, htd,
      State.lines]
  | cons x' xs ih =>
    cases h with | cons _ _ _ _ _ _ _ y z rxs hframe hrest => ?_
    have hq' : s.quietFor 4 = true := quietFor_mono s hq (by simp only [List.length_cons]; omega)
    rw [scriptSteps, runSteps_scriptFrame _ _ htd hq' hframe]
    rw [ih (rxs := rxs) hrest rfl (quietFor_of_resets s _ hq rfl)]
    congr 1
    simp [State.scripted, State.framed, scriptEvents, after_frame, State.assign, loadWrite, ScriptEntry.td,
      List.getLast?_cons, State.lines, Lines.drive]
    exact ⟨by omega, congrArg (tickBy · s.resets) (by omega), by omega⟩

/-! INIT. -/

/-- R165: INIT where the environment answers the script with the bytes `rx`. -/
theorem exec_init_answered {rx : Fin 12 → Byte} (hc : s.cmd = none) (hq : s.quietFor 25 = true)
    (h : ScriptAnswered initScript s.lines s.draws s.env (List.ofFn rx) e) :
    exec .init s = .next (Expect.initialised rx e (s.draws + 12) s) := by
  let s1 := (s.accept .init planInit).configure.countStep.assigns [loadWrite .ag 0x10 (Config.initData 0)]
  have hcfgw : (s.accept .init planInit).busStep ⟨.cfgw, [loadWrite .ag 0x10 (Config.initData 0)]⟩ = .running s1 :=
    busStep_cfgw _ _ (resetNow_accept hq _ _)
  have hscript := runSteps_scriptSteps (s := s1) (r := .noValue) (x := ⟨.ag, 0x10, Config.initData 0⟩) h rfl
    (quietFor_of_resets s s1 hq rfl)
  rw [exec_of_accepts s ⟨hc, trivial, .inl rfl⟩]
  refine congrArg _ ((runSteps_cons_running _ _ hcfgw).trans (hscript.trans ?_))
  have htrace : s1.trace ++ scriptEvents initScript (List.ofFn rx) = s.trace ++ Expect.initTrace rx :=
    List.append_assoc s.trace _ _
  have hresets : tickBy 24 s1.resets = tickBy 25 s.resets := tickBy_tickBy 24 1 s.resets
  simp only [Expect.initialised, Expect.finished, ← htrace, ← hresets]
  rfl

theorem exists_ofFn_eq {k : Nat} (h : rxs.length = k) : ∃ rx : Fin k → Byte, List.ofFn rx = rxs := by
  subst h
  exact ⟨rxs.get, List.ofFn_get rxs⟩

/-- R226: INIT, started with both lines high and stuck in a transfer, has the line of that transfer's frame low. -/
theorem exec_init_stuck (hc : s.cmd = none) (hq : s.quietFor 25 = true) (hcompl : s.env.completes 12 s.draws = false)
    (hl : s.lines = Lines.bothHigh) :
    ∃ t, exec .init s = .next t ∧ t.cmd = some .init ∧ t.initd = s.initd ∧
      (t.lines = ⟨.low, .high⟩ ∨ t.lines = ⟨.high, .low⟩) := by
  obtain ⟨pre, b, post, u, x, e, hbs, hrun, hop, hx⟩ :=
    stuck_of_not_completes (i := .init) ⟨hc, trivial, .inl rfl⟩ hq hcompl
  obtain ⟨o, hrest, hlines⟩ := lines_of_firstSteps (i := .init) trivial rfl hl hbs hrun
  rw [open_of_framed_xfer hrest hop] at hlines
  have hcmd : u.cmd = some .init := (ranOn_of_firstSteps _ _ hrun).cmd.trans (accept_cmd s _ _)
  have hinitd : u.initd = s.initd := initd_before_last hbs hrun
  have hlow : u.lines = ⟨.low, .high⟩ ∨ u.lines = ⟨.high, .low⟩ := by
    rw [hlines]
    cases u.td.dev
    · exact .inl rfl
    · exact .inr rfl
  exact ⟨_, hx, hcmd, hinitd, hlow⟩

/-- Settles O26: the script is answered in full, with listed bytes if they are listed, or it is stuck in a frame. -/
theorem initRunsScript : Obligations.InitRunsScript := by
  refine ⟨by decide, fun s hc hq hcompl => ?_, fun s rx rest hc hq he => ?_, fun s hc hq hcompl hl => ?_⟩
  · obtain ⟨rxs, e, hans⟩ := scriptAnswered_of_completes (xs := initScript) (l := s.lines) hcompl
    obtain ⟨rx, rfl⟩ := exists_ofFn_eq hans.length
    exact ⟨rx, e, exec_init_answered hc hq hans⟩
  · refine exec_init_answered hc hq ?_
    rw [he]
    exact scriptAnswered_of_listed rest (List.length_ofFn ..)
  · obtain ⟨t, hx, hcmd, hinitd, hlines⟩ := exec_init_stuck hc hq hcompl hl
    obtain ⟨hrdx, hres⟩ := scratchAndResponseFrame .init s t hq hx
    exact ⟨t, hx, hcmd, hinitd, hrdx (.inl rfl), hres (.inl rfl), hlines⟩

end Sys2Proof.Machine
end

section
/-! PROOFS. 20_memory.md: the register space of the reference device, and what whole commands do to it. -/

namespace Sys2Proof.Machine

variable {s t u : State} {i : Instr} {r : RefDev} {d : Device} {a : Addr} {v : Byte} {e e' : Env} {n : Nat}

/-! The register space in canonical form. -/

/-- A canonical space holds nothing below its first address. -/
theorem Memory.readAt_of_lt {mem : Memory} {lo b : Nat} (h : Memory.wfFrom lo mem = true) (hb : b < lo) :
    mem.readAt b = unlisted := by
  induction mem generalizing lo with
  | nil => rfl
  | cons c cs ih =>
    obtain ⟨hlo, -, -, hcs⟩ := (wfFrom_cons _ _ _).mp h
    rw [readAt, if_neg (by omega), ih hcs (by omega)]

/-- The first cell of a canonical space is the first address that reads otherwise than unlisted. -/
theorem Memory.first_le {c : Host.Cell} {cs mem : Memory} {lo : Nat} (h : Memory.wfFrom lo mem = true)
    (hc : c.2 ≠ unlisted) (hread : mem.readAt c.1 = Memory.readAt (c :: cs) c.1) : lo ≤ c.1 := by
  by_contra hlt
  rw [readAt_of_lt h (by omega), readAt, if_pos rfl] at hread
  exact hc hread.symm

/-- Canonical spaces that read alike are the same data: their first cells agree, and so do the rests. -/
theorem Memory.eq_of_readAt {mem mem' : Memory} {lo : Nat} (h : Memory.wfFrom lo mem = true)
    (h' : Memory.wfFrom lo mem' = true) (hread : ∀ b < spaceSize, mem.readAt b = mem'.readAt b) : mem = mem' := by
  induction mem generalizing mem' lo with
  | nil =>
    cases mem' with
    | nil => rfl
    | cons c' cs' =>
      obtain ⟨-, hsize, hne, -⟩ := (wfFrom_cons _ _ _).mp h'
      have hcell := hread c'.1 hsize
      rw [readAt, readAt, if_pos rfl] at hcell
      exact absurd hcell.symm hne
  | cons c cs ih =>
    obtain ⟨-, hsize, hne, hcs⟩ := (wfFrom_cons _ _ _).mp h
    cases mem' with
    | nil =>
      have hcell := hread c.1 hsize
      rw [readAt, readAt, if_pos rfl] at hcell
      exact absurd hcell hne
    | cons c' cs' =>
      obtain ⟨hlo', hsize', hne', hcs'⟩ := (wfFrom_cons _ _ _).mp h'
      have hfrom : Memory.wfFrom c.1 (c :: cs) = true := (wfFrom_cons _ _ _).mpr ⟨le_rfl, hsize, hne, hcs⟩
      have hfrom' : Memory.wfFrom c'.1 (c' :: cs') = true := (wfFrom_cons _ _ _).mpr ⟨le_rfl, hsize', hne', hcs'⟩
      have haddr : c.1 = c'.1 :=
        Nat.le_antisymm (first_le hfrom hne' (hread c'.1 hsize')) (first_le hfrom' hne (hread c.1 hsize).symm)
      have hbyte : c.2 = c'.2 := by
        have hcell := hread c.1 hsize
        rwa [readAt, readAt, if_pos rfl, if_pos haddr] at hcell
      have hrest : cs = cs' := by
        refine ih hcs (haddr ▸ hcs') fun b hb => ?_
        by_cases hbc : b = c.1
        · rw [readAt_of_lt hcs (by omega), readAt_of_lt hcs' (by omega)]
        · have hcell := hread b hb
          rwa [readAt, readAt, if_neg hbc, if_neg (haddr ▸ hbc)] at hcell
      rw [hrest, Prod.ext haddr hbyte]

/-- Settles O52: reads after writes, and the canonical form as data. -/
theorem registerSpaceIsCanonicalStorage : Obligations.RegisterSpaceIsCanonicalStorage := by
  refine ⟨fun mem a b v h => ⟨mem.wf_write a v h, mem.read_write_same a v h, mem.read_write_other a b v⟩,
    fun mem mem' h h' hread => Memory.eq_of_readAt h h' fun b hb => ?_⟩
  have hb' : (BitVec.ofNat 7 b).toNat = b := Nat.mod_eq_of_lt hb
  have hcell := hread (BitVec.ofNat 7 b)
  rwa [Memory.read, Memory.read, hb'] at hcell

/-! A write frame on the reference device. -/

/-- The reference device after a write frame on `d` (R79), the line high again. -/
def RefDev.written (d : Device) (a : Addr) (v : Byte) (r : RefDev) : RefDev :=
  r.withSub d (((r.sub d).afterWrite a v).onCs .low .high)

theorem onCs_afterWrite :
    (Env.refDev (r.withSub d ((r.sub d).afterWrite a v))).onCs (Lines.bothHigh.drive d .low) d .high =
      .refDev (r.written d a v) := by
  rw [onCs_refDev_eq, sub_withSub, withSub_withSub, of_drive]
  rfl

@[simp] theorem outside_written : (r.written d a v).outside = r.outside := outside_withSub r d _

@[simp] theorem writable_written (d' : Device) : ((r.written d a v).sub d').writable = (r.sub d').writable := by
  by_cases hd : d' = d
  · subst hd
    rw [RefDev.written, sub_withSub]
    rfl
  · rw [RefDev.written, sub_withSub_other r d _ hd]

/-- R79: the registers of the device written to. -/
theorem reg_written_same : ((r.written d a v).sub d).reg =
    if a ∈ (r.sub d).writable then (r.sub d).reg.write a v else (r.sub d).reg := by
  rw [RefDev.written, sub_withSub]
  rfl

theorem reg_written_other {d' : Device} (hd : d' ≠ d) : ((r.written d a v).sub d').reg = (r.sub d').reg := by
  rw [RefDev.written, sub_withSub_other r d _ hd]

theorem memWf_written (h : (Env.refDev r).memWf = true) : (Env.refDev (r.written d a v)).memWf = true := by
  rw [memWf_refDev] at h ⊢
  intro d'
  by_cases hd : d' = d
  · subst hd
    rw [reg_written_same]
    split
    · exact Memory.wf_write _ _ _ (h d')
    · exact h d'
  · rw [reg_written_other hd]
    exact h d'

theorem regAt_refDev (r : RefDev) (d : Device) (b : Addr) :
    (Env.refDev r).regAt d b = some ((r.sub d).reg.read b) := rfl

/-- R79: the one register a write frame can change. -/
theorem regAt_written (h : (Env.refDev r).memWf = true) (d' : Device) (b : Addr) :
    (Env.refDev (r.written d a v)).regAt d' b =
      if (d' = d ∧ b = a) ∧ a ∈ (r.sub d).writable then some v else (Env.refDev r).regAt d' b := by
  rw [memWf_refDev] at h
  rw [regAt_refDev, regAt_refDev]
  by_cases hd : d' = d
  · subst hd
    rw [reg_written_same]
    by_cases hw : a ∈ (r.sub d').writable
    · by_cases hb : b = a
      · subst hb
        simp [hw, Memory.read_write_same _ _ _ (h d')]
      · simp [hw, hb, Memory.read_write_other _ _ _ _ hb]
    · simp [hw]
  · simp [hd, reg_written_other hd]

/-- R79: WRREG on the reference device. -/
theorem exec_wrreg_refDev (h : s.Accepts (.wrreg d a v)) (hq : s.quietFor 4 = true) (hl : s.lines = Lines.bothHigh)
    (he : s.env = .refDev r) (ho : r.outside = false) :
    ∃ t, exec (.wrreg d a v) s = .next t ∧ t.cmd = none ∧ t.lines = Lines.bothHigh ∧ t.env = .refDev (r.written d a v) ∧
      t.configured = s.configured ∧ t.resets = tickBy 4 s.resets := by
  refine ⟨_, exec_wrreg_answered h hq (refDev_write s r d a hl he ho v), rfl, ?_, ?_, rfl, rfl⟩
  · have hag : s.agN = .high := congrArg Lines.ag hl
    have hm : s.mN = .high := congrArg Lines.m hl
    cases d <;> simp [State.lines, Expect.written, Expect.finished, hag, hm, Lines.bothHigh]
  · rw [Expect.written, Expect.finished, hl, onCs_afterWrite]

/-- Settles O53: the one register a write frame can change, the frame being answered. -/
theorem wrregStoresOneByte : Obligations.WrregStoresOneByte := by
  intro d a v s r h hq hl he ho hmem
  obtain ⟨t, hx, hc, -, henv, -, -⟩ := exec_wrreg_refDev h hq hl he ho
  rw [he] at hmem
  refine ⟨t, hx, hc, fun d' b hne => ?_, ?_⟩
  · rw [henv, he, regAt_written hmem, if_neg fun hsame => hne hsame.1]
  · rw [henv, he, regAt_written hmem]
    simp

/-- Settles O57: the register holds the byte, and the read frame returns what the register holds. -/
theorem writeThenReadBack : Obligations.WriteThenReadBack := by
  intro d a v s r h hq hl he ho hmem hw
  obtain ⟨-, -, hi⟩ := id h
  obtain ⟨t, hx, hc, hl', henv, hconf, hres⟩ := exec_wrreg_refDev h (quietFor_mono s hq (by omega)) hl he ho
  have hconf' : t.configured = true := hconf.trans (hi.resolve_left (by simp))
  have hq' : t.quietFor 4 = true := quietFor_of_resets s t (n := 4) (m := 4) hq hres
  have hread := exec_rdreg_one_answered (s := t) (d := d) (a := a) ⟨hc, .inl rfl, .inr hconf'⟩ hq'
    (refDev_readOne t _ d a hl' henv (outside_written.trans ho))
  have hbyte : ((r.written d a v).sub d).reg.read a = v := by
    rw [he, memWf_refDev] at hmem
    rw [reg_written_same, if_pos hw, Memory.read_write_same _ _ _ (hmem d)]
  rw [hbyte] at hread
  exact ⟨t, _, hx, hread, rfl, rfl⟩

/-! INIT on the reference device. -/

/-- The reference device after the writes of a script. -/
def RefDev.scripted (xs : List ScriptEntry) (r : RefDev) : RefDev :=
  xs.foldl (fun r x => r.written x.dev x.addr x.data) r

/-- Register contents after the writes of a script. -/
def storeScript (xs : List ScriptEntry) (f : Device → Addr → Option Byte) : Device → Addr → Option Byte :=
  xs.foldl (fun f x d b => if d = x.dev ∧ b = x.addr then some x.data else f d b) f

/-- R79: the reference device answers the script, one write frame after the other. -/
theorem scriptAnswered_refDev (xs : List ScriptEntry) (n : Nat) (ho : r.outside = false) :
    ∃ rxs, ScriptAnswered xs Lines.bothHigh n (.refDev r) rxs (.refDev (r.scripted xs)) := by
  induction xs generalizing r n with
  | nil => exact ⟨[], .nil _ _ _⟩
  | cons x xs ih =>
    have hframe := refDev_write { State.reset with env := .refDev r, draws := n } r x.dev x.addr rfl rfl ho x.data
    obtain ⟨rxs, hrest⟩ := ih (r := r.written x.dev x.addr x.data) (n + 2) (outside_written.trans ho)
    refine ⟨_, .cons x xs _ n _ _ _ _ _ rxs hframe ?_⟩
    have hhigh : Lines.bothHigh.drive x.dev .high = Lines.bothHigh := by cases x.dev <;> rfl
    rw [onCs_afterWrite, hhigh]
    exact hrest

/-- R79: where every write of the script is to a writable register, its byte is stored there. -/
theorem regAt_scripted {xs : List ScriptEntry} (hmem : (Env.refDev r).memWf = true)
    (hw : ∀ x ∈ xs, x.addr ∈ (r.sub x.dev).writable) :
    (Env.refDev (r.scripted xs)).regAt = storeScript xs (Env.refDev r).regAt := by
  induction xs generalizing r with
  | nil => rfl
  | cons x xs ih =>
    have hstore : (Env.refDev (r.written x.dev x.addr x.data)).regAt =
        fun d b => if d = x.dev ∧ b = x.addr then some x.data else (Env.refDev r).regAt d b := by
      funext d b
      rw [regAt_written hmem]
      simp [hw x List.mem_cons_self]
    have hrest := ih (r := r.written x.dev x.addr x.data) (memWf_written hmem) fun y hy => by
      rw [writable_written]
      exact hw y (List.mem_cons_of_mem x hy)
    rw [hstore] at hrest
    exact hrest

/-- R61, R166: the script writes to default writable registers. -/
theorem initScript_mem_defaultWritable : ∀ x ∈ initScript, x.addr ∈ defaultWritable x.dev := by
  obtain ⟨hag, hm, -⟩ := tablesFollowTheRegisterMap
  simp [initScript, hag, hm]

theorem initScript_writable (hag : r.ag.writable = defaultWritable .ag) (hm : r.m.writable = defaultWritable .m) :
    ∀ x ∈ initScript, x.addr ∈ (r.sub x.dev).writable := by
  have hw : ∀ d, (r.sub d).writable = defaultWritable d := fun d => by
    cases d
    · exact hag
    · exact hm
  intro x hx
  rw [hw]
  exact initScript_mem_defaultWritable x hx

/-- R166: the six registers of the script, each written once. -/
theorem storeScript_initScript (f : Device → Addr → Option Byte) :
    storeScript initScript f .ag 0x10 = some (Config.initData 0) ∧
    storeScript initScript f .ag 0x20 = some (Config.initData 1) ∧
    storeScript initScript f .ag 0x1F = some (Config.initData 2) ∧
    storeScript initScript f .m 0x22 = some (Config.initData 3) ∧
    storeScript initScript f .m 0x20 = some (Config.initData 4) ∧
    storeScript initScript f .m 0x23 = some (Config.initData 5) := by
  simp [storeScript, initScript]

theorem storeScript_of_forall_ne {xs : List ScriptEntry} {f : Device → Addr → Option Byte}
    (h : ∀ x ∈ xs, ¬ (d = x.dev ∧ a = x.addr)) : storeScript xs f d a = f d a := by
  induction xs generalizing f with
  | nil => rfl
  | cons x xs ih =>
    rw [storeScript, List.foldl_cons, ← storeScript, ih fun y hy => h y (List.mem_cons_of_mem x hy),
      if_neg (h x List.mem_cons_self)]

theorem initScript_ne_of_notMem (ha : a ∉ defaultWritable d) : ∀ x ∈ initScript, ¬ (d = x.dev ∧ a = x.addr) := by
  rintro x hx ⟨rfl, rfl⟩
  exact ha (initScript_mem_defaultWritable x hx)

/-- Settles O54: the six stores of the script, none to the address of another on the same device. -/
theorem initStoresItsData : Obligations.InitStoresItsData := by
  intro s r hc hq hl he ho hmem hag hm
  obtain ⟨rxs, hans⟩ := scriptAnswered_refDev initScript s.draws ho
  obtain ⟨rx, rfl⟩ := exists_ofFn_eq hans.length
  rw [he] at hmem
  have hx := exec_init_answered (rx := rx) (e := .refDev (r.scripted initScript)) hc hq (by rw [hl, he]; exact hans)
  have hregs : (Expect.initialised rx (.refDev (r.scripted initScript)) (s.draws + 12) s).env.regAt =
      storeScript initScript (Env.refDev r).regAt := regAt_scripted hmem (initScript_writable hag hm)
  obtain ⟨h0, h1, h2, h3, h4, h5⟩ := storeScript_initScript (Env.refDev r).regAt
  refine ⟨_, hx, ?_⟩
  rw [hregs, he]
  exact ⟨h0, h1, h2, h3, h4, h5, fun a ha => storeScript_of_forall_ne (initScript_ne_of_notMem ha),
    fun a ha => storeScript_of_forall_ne (initScript_ne_of_notMem ha)⟩

end Sys2Proof.Machine
end

section
/-! PROOFS. 20_memory.md R71 to R82: what reads and transport commands do to the reference device, and the named
assumptions on it. -/

namespace Sys2Proof.Machine

variable {s t u : State} {i : Instr} {r : RefDev} {d : Device} {a : Addr} {b : Byte} {e : Env} {n : Nat} {l : Lines}

/-! Reads. -/

/-- R79: after a second data byte of a write frame the model's device answers no transfer of one selected sub-device by
a change (log entry 6). -/
theorem answers_of_outside (ho : r.outside = true) (d : Device) (txs : List Byte) (n : Nat) :
    ∃ rxs, (Env.refDev r).answers (Lines.bothHigh.drive d .low) txs n = some (rxs, .refDev r) := by
  induction txs generalizing n with
  | nil => exact ⟨[], rfl⟩
  | cons tx txs ih =>
    obtain ⟨rxs, hrest⟩ := ih (n + 1)
    have hfirst : (Env.refDev r).answer (Lines.bothHigh.drive d .low) tx n =
        ⟨some (Config.freeByte n), .refDev r⟩ := by
      cases d <;> simp [Env.answer, RefDev.answer, RefDev.answerFrom, ho, Lines.bothHigh, Lines.drive]
    exact ⟨Config.freeByte n :: rxs, by rw [Env.answers, hfirst]; simp only [hrest]⟩

theorem regAt_withSub (x : RefDevice) (hx : x.reg = (r.sub d).reg) :
    (Env.refDev (r.withSub d x)).regAt = (Env.refDev r).regAt := by
  funext d' b
  rw [regAt_refDev, regAt_refDev]
  by_cases hd : d' = d
  · subst hd
    rw [sub_withSub, hx]
  · rw [sub_withSub_other r d x hd]

/-- R78 to R80: the reference device answers the read frames, and they change no register. -/
theorem frameAnswers_read (hl : s.lines = Lines.bothHigh) (he : s.env = .refDev r) (d : Device) (a : Addr) :
    (∃ x lo e, s.frameAnswers d [readByte a, dummy] = some ([x, lo], e) ∧ e.regAt = s.env.regAt) ∧
    (∃ x lo hi e, s.frameAnswers d [readByte a, dummy, dummy] = some ([x, lo, hi], e) ∧ e.regAt = s.env.regAt) := by
  cases ho : r.outside with
  | false =>
    rw [refDev_readOne s r d a hl he ho, refDev_readTwo s r d a hl he ho, he]
    exact ⟨⟨_, _, _, rfl, regAt_withSub _ rfl⟩, _, _, _, _, rfl, regAt_withSub _ rfl⟩
  | true =>
    have hanswers : ∀ txs, ∃ rxs, s.frameAnswers d txs =
        some (rxs, .refDev (r.withSub d ((r.sub d).onCs (Lines.bothHigh.of d) .low))) := fun txs => by
      rw [State.frameAnswers, hl, he, onCs_refDev_eq]
      exact answers_of_outside (by simp [ho]) d txs s.draws
    have hregs : (Env.refDev (r.withSub d ((r.sub d).onCs (Lines.bothHigh.of d) .low))).regAt = s.env.regAt := by
      rw [he]
      exact regAt_withSub _ (onCs_reg _ _ _)
    refine ⟨?_, ?_⟩
    · obtain ⟨rxs, h⟩ := hanswers [readByte a, dummy]
      match rxs, answers_length _ _ _ h with
      | [x, lo], _ => exact ⟨x, lo, _, h, hregs⟩
    · obtain ⟨rxs, h⟩ := hanswers [readByte a, dummy, dummy]
      match rxs, answers_length _ _ _ h with
      | [x, lo, hi], _ => exact ⟨x, lo, hi, _, h, hregs⟩

/-- R77: the registers after a line is driven are those before. -/
theorem regAt_onCs_of_eq {f : Device → Addr → Option Byte} {v : Level} (h : e.regAt = f) : (e.onCs l d v).regAt = f := by
  funext d' b
  rw [regAt_onCs, h]

/-- R161, R199: a command that reads a device register makes one read frame, which leaves the registers as they were. -/
theorem exec_read_env (hi : (∃ d a bc, i = .rdreg d a bc) ∨ (acctab i).isSome = true ∨ ∃ d, i = .rdid d)
    (h : s.Accepts i) (hq : s.quietFor 5 = true) (hl : s.lines = Lines.bothHigh) (he : s.env = .refDev r) :
    ∃ t, exec i s = .next t ∧ t.env.regAt = s.env.regAt := by
  have hq4 : s.quietFor 4 = true := quietFor_mono s hq (by omega)
  rcases hi with ⟨d, a, bc, rfl⟩ | hrow | ⟨d, rfl⟩
  · obtain ⟨⟨x, lo, e, hone, hregs⟩, ⟨x', lo', hi', e', htwo, hregs'⟩⟩ := frameAnswers_read hl he d a
    obtain rfl | rfl : bc = 1 ∨ bc = 2 := h.wellFormed
    · exact ⟨_, exec_rdreg_one_answered h hq4 hone, regAt_onCs_of_eq hregs⟩
    · exact ⟨_, exec_rdreg_two_answered h hq htwo, regAt_onCs_of_eq hregs'⟩
  · obtain ⟨row, hrow⟩ := Option.isSome_iff_exists.mp hrow
    obtain ⟨-, ⟨x, lo, hi', e, htwo, hregs⟩⟩ := frameAnswers_read hl he row.dev row.addr
    exact ⟨_, readsScaled_of_plan (planOf_of_acctab hrow) s x lo hi' e h hq htwo, regAt_onCs_of_eq hregs⟩
  · obtain ⟨⟨x, lo, e, hone, hregs⟩, -⟩ := frameAnswers_read hl he d identityAddr
    exact ⟨_, exec_of_readOnePlan rfl h hq4 hone, regAt_onCs_of_eq hregs⟩

/-- R70: the environment is the normative one. -/
def Env.Unconstrained (e : Env) : Prop := ∃ as, e = .unconstrained as

theorem unconstrained_answer {l : Lines} {tx : Byte} {rx : Option Byte} {e' : Env} (h : e.Unconstrained)
    (ha : e.answer l tx n = ⟨rx, e'⟩) : e'.Unconstrained := by
  obtain ⟨as, rfl⟩ := h
  cases as with
  | nil => cases ha; exact ⟨[], rfl⟩
  | cons a as => cases ha; exact ⟨as, rfl⟩

theorem unconstrained_onCs {l : Lines} {v : Level} (h : e.Unconstrained) : (e.onCs l d v).Unconstrained := by
  obtain ⟨as, rfl⟩ := h
  exact ⟨as, rfl⟩

theorem regAt_of_unconstrained (h : e.Unconstrained) : e.regAt = fun _ _ => none := by
  obtain ⟨as, rfl⟩ := h
  rfl

theorem unconstrained_raiseLines (h : s.env.Unconstrained) : s.raiseLines.Unconstrained := by
  unfold State.raiseLines
  split <;> split
  · exact unconstrained_onCs (unconstrained_onCs h)
  · exact unconstrained_onCs h
  · exact unconstrained_onCs h
  · exact h

theorem unconstrained_of_running {c : BusStep} (h : s.busStep c = .running t) (he : s.env.Unconstrained) :
    t.env.Unconstrained := by
  rcases running_cases h with ⟨-, rfl⟩ | ⟨d, v, -, rfl⟩ | ⟨x, rx, e, -, ha, rfl⟩ <;> rw [assigns_env]
  · exact he
  · exact unconstrained_onCs he
  · exact unconstrained_answer he ha

theorem unconstrained_of_stopped {c : BusStep} (h : s.busStep c = .stopped t) (he : s.env.Unconstrained) :
    t.env.Unconstrained := by
  rcases stopped_cases h with rfl | ⟨x, e, -, ha, rfl⟩
  · exact unconstrained_raiseLines he
  · exact unconstrained_answer he ha

/-- R70: the normative environment is still one after a command. -/
theorem unconstrained_of_exec (h : s.Accepts i) (hx : exec i s = .next t) (he : s.env.Unconstrained) :
    t.env.Unconstrained := by
  rw [exec_of_accepts s h, Host.Outcome.next.injEq] at hx
  rw [← hx]
  exact runSteps_rule (fun _ u => u.env.Unconstrained) (fun u => u.env.Unconstrained) _ (fun _ hu => hu)
    (fun _ _ _ _ hu hb => unconstrained_of_running hb hu) (fun _ _ _ _ hu hb => unconstrained_of_stopped hb hu) _ _
    (by rwa [accept_env])

/-- Settles O55: the reference device answers the read without a change of its registers, and the normative environment
has none. -/
theorem readsLeaveTheDeviceRegisters : Obligations.ReadsLeaveTheDeviceRegisters := by
  intro i s t hi hl hq hx d a
  rcases exec_next_cases hx with ⟨-, rfl⟩ | h
  · rfl
  · cases he : s.env with
    | refDev r =>
      obtain ⟨t', hx', hregs⟩ := exec_read_env hi h hq hl he
      cases hx'.symm.trans hx
      rw [hregs, he]
    | unconstrained as =>
      rw [regAt_of_unconstrained (unconstrained_of_exec h hx ⟨as, he⟩)]
      rfl

/-! The transport commands. -/

/-- R79: the registers of a sub-device after a transfer to it: the byte is stored where the transfer stores. -/
theorem reg_answer (x : RefDevice) (tx free : Byte) : (x.answer tx free).device.reg =
    x.storeAddr.elim x.reg (fun a => x.reg.write a tx) := by
  unfold RefDevice.answer RefDevice.storeAddr
  cases hp : x.phase with
  | idle => rfl
  | addr => rfl
  | data =>
    cases hrw : x.rw with
    | true => rfl
    | false =>
      cases hwrote : x.wrote with
      | true => rfl
      | false =>
        by_cases hw : x.ptr ∈ x.writable
        · simp [RefDevice.takeData, hw]
        · simp [RefDevice.takeData, hw]

/-- R79: the one register a transfer to the sub-device `d` can change. -/
theorem regAt_answerFrom (tx : Byte) (n : Nat) (ho : r.outside = false) (hmem : (Env.refDev r).memWf = true)
    (d' : Device) (b : Addr) : (r.answerFrom d tx n).env.regAt d' b =
      if (r.sub d).storeAddr.map (fun a => (d, a)) = some (d', b) then some tx else (Env.refDev r).regAt d' b := by
  have henv : (r.answerFrom d tx n).env.regAt d' b =
      some (((r.withSub d ((r.sub d).answer tx (Config.freeByte n)).device).sub d').reg.read b) := by
    rw [RefDev.answerFrom, if_neg (by simp [ho])]
    cases d' <;> rfl
  rw [henv, regAt_refDev]
  by_cases hd : d' = d
  · subst hd
    rw [sub_withSub, reg_answer]
    cases hs : (r.sub d').storeAddr with
    | none => simp
    | some a =>
      by_cases hb : b = a
      · simp [hb, Memory.read_write_same _ _ _ ((memWf_refDev r).mp hmem d')]
      · simp [Ne.symm hb, Memory.read_write_other _ _ _ _ hb]
  · rw [sub_withSub_other r d _ hd, if_neg]
    simp [Ne.symm hd]

/-- R79, R81: with at most one line low a transfer stores its byte at its target and changes no other register. -/
theorem regAt_answer (tx : Byte) (n : Nat) (hl : l.Exclusive) (hmem : e.memWf = true) (d : Device) (b : Addr) :
    (e.answer l tx n).env.regAt d b = if e.storeTarget l = some (d, b) then some tx else e.regAt d b := by
  cases e with
  | unconstrained as => cases as <;> rfl
  | refDev r =>
    obtain ⟨ag, m⟩ := l
    cases ho : r.outside with
    | true =>
      have hkeep : ∀ d', r.answerFrom d' tx n = ⟨some (Config.freeByte n), .refDev r⟩ := fun d' => by
        simp [RefDev.answerFrom, ho]
      rcases hl with rfl | rfl
      · cases m <;> simp [Env.answer, RefDev.answer, Env.storeTarget, ho, hkeep]
      · cases ag <;> simp [Env.answer, RefDev.answer, Env.storeTarget, ho, hkeep]
    | false =>
      cases ag <;> cases m
      · exact absurd hl (by simp [Lines.Exclusive])
      · simpa [Env.answer, RefDev.answer, Env.storeTarget, RefDev.sub, ho] using
          regAt_answerFrom (d := .ag) tx n ho hmem d b
      · simpa [Env.answer, RefDev.answer, Env.storeTarget, RefDev.sub, ho] using
          regAt_answerFrom (d := .m) tx n ho hmem d b
      · simp [Env.answer, RefDev.answer, Env.storeTarget, ho]

/-- R143, R226: the environment after XFER is the one that answered its transfer, if only to say that it never
completes. -/
theorem exec_xfer_env (h : s.Accepts (.xfer b)) (hq : s.quietFor 1 = true) (hx : exec (.xfer b) s = .next t) :
    t.env = (s.env.answer s.lines b s.draws).env := by
  rcases hans : s.env.answer s.lines b s.draws with ⟨_ | rx, e⟩
  · rw [exec_xfer_hangs h hq hans] at hx
    cases hx
    rfl
  · rw [exec_xfer_answered h hq hans] at hx
    cases hx
    rfl

/-- Settles O56: driving a line changes no register, and a transfer stores at its target alone. -/
theorem transportLeavesOtherDeviceRegisters : Obligations.TransportLeavesOtherDeviceRegisters := by
  refine ⟨fun i s t hi hq hx d a => ?_, fun b s t hl hq hc hmem hx => ?_⟩
  · rcases exec_next_cases hx with ⟨-, rfl⟩ | h
    · rfl
    · obtain ⟨d', v, hp⟩ : ∃ d' v, planOf i = ⟨[], [⟨.cs d' v, []⟩], .noValue⟩ := by
        rcases hi with ⟨d', rfl⟩ | ⟨d', rfl⟩
        · exact ⟨d', .low, rfl⟩
        · exact ⟨d', .high, rfl⟩
      rw [exec_of_drivePlan hp h hq] at hx
      cases hx
      exact regAt_onCs ..
  · rcases exec_next_cases hx with ⟨hbusy, -⟩ | h
    · exact absurd hc hbusy
    · rw [exec_xfer_env h hq hx]
      exact ⟨fun d a hne => by rw [regAt_answer b _ hl hmem, if_neg hne],
        fun d a htarget => by rw [regAt_answer b _ hl hmem, if_pos htarget]⟩

/-- Settles O60: the line's event reaches the one sub-device, which takes it as its line's level before says. -/
theorem referenceDeviceSeesItsLine : Obligations.ReferenceDeviceSeesItsLine := by
  intro d s r he hq
  have hwas : s.lines.of d = s.line d := by cases d <;> rfl
  refine ⟨fun h => ?_, fun h => ?_⟩
  · refine ⟨_, r.withSub d ((r.sub d).onCs (s.line d) .low), exec_of_drivePlan rfl h hq, ?_, fun hfall => ?_,
      fun hlow hkeep => ?_, fun d' hd => sub_withSub_other r d _ hd, outside_withSub r d _⟩
    · rw [← hwas, ← onCs_refDev_eq, ← he]
      rfl
    · rw [sub_withSub, RefDevice.onCs, if_neg]
      rintro ⟨hlow, hkeep⟩
      rcases hfall with hhigh | hrestart
      · cases hlow.symm.trans hhigh
      · cases hkeep.symm.trans hrestart
    · rw [sub_withSub, RefDevice.onCs, if_pos ⟨hlow, hkeep⟩]
  · refine ⟨_, r.withSub d ((r.sub d).onCs (s.line d) .high), exec_of_drivePlan rfl h hq, ?_, sub_withSub r d _,
      fun d' hd => sub_withSub_other r d _ hd, outside_withSub r d _⟩
    rw [← hwas, ← onCs_refDev_eq, ← he]
    rfl

/-! The named assumptions. -/

/-- Settles O58: what the assumptions say of the bytes received, and how the two bytes make the response. -/
theorem twoByteReadUnderAutoIncrement : Obligations.TwoByteReadUnderAutoIncrement := by
  intro d a content ptr s h hq hc hdev
  obtain ⟨-, hptr, hanswers⟩ := hdev
  obtain ⟨x, lo, hi, e, hans⟩ := frameAnswers_three_of_completes (readByte a) dummy dummy d hc
  have hlo : lo = content a := by
    rw [← hptr]
    exact Option.some.inj (hanswers 2 x [lo, hi] e le_rfl hans 0 (by omega))
  have hhi : hi = content (ptr 1) := Option.some.inj (hanswers 2 x [lo, hi] e le_rfl hans 1 (by omega))
  have hres : (assemble 2 lo hi).toNat = hi.toNat * 256 + (content a).toNat := by rw [assemble_two_toNat, hlo]
  refine ⟨_, exec_rdreg_two_answered h hq hans, rfl, rfl, hhi ▸ hres, fun hainc hinc => ?_⟩
  obtain ⟨next, hnext, hbyte⟩ := hinc hainc x lo hi e hans
  exact ⟨next, hnext, hbyte ▸ hres⟩

/-- R73: the location after `a`, where there is one. -/
theorem exists_next_iff {P : Addr → Prop} (a : Addr) : (∃ next : Addr, next.toNat = a.toNat + 1 ∧ P next) ↔
    a ≠ 0x7F ∧ P (a + 1) := by
  have hadd : a ≠ 0x7F → (a + 1).toNat = a.toNat + 1 := by revert a; decide
  refine ⟨fun ⟨next, hnext, hp⟩ => ?_, fun ⟨ha, hp⟩ => ⟨a + 1, hadd ha, hp⟩⟩
  have ha : a ≠ 0x7F := by
    rintro rfl
    exact absurd next.isLt (by rw [hnext]; decide)
  have hsame : next = a + 1 := BitVec.eq_of_toNat_eq (hnext.trans (hadd ha).symm)
  exact ⟨ha, hsame ▸ hp⟩

/-- Settles O59: what the read frames of the reference device give, with the advance of its pointer. -/
theorem referenceDeviceMeetsTheAssumptions : Obligations.ReferenceDeviceMeetsTheAssumptions := by
  rintro d a s r x hl he ho rfl
  have hone := refDev_readOne s r d a hl he ho
  have htwo := refDev_readTwo s r d a hl he ho
  refine ⟨fun k n => by rw [he, completes_refDev], ⟨by rw [hl]; rfl, by simp, ?_⟩, fun hainc => ?_, fun hinc => ?_,
    fun hinc => ?_⟩
  · intro n y data e hn hans k hk
    obtain rfl | rfl : n = 1 ∨ n = 2 := by omega
    · obtain rfl : k = 0 := by omega
      cases hone.symm.trans hans
      simp
    · cases htwo.symm.trans hans
      obtain rfl | rfl : k = 0 ∨ k = 1 := by omega
      · simp
      · rfl
  · have hauto : DevAutoinc d (r.sub d).reg.read a s ↔ ∃ next : Addr, next.toNat = a.toNat + 1 ∧
        (r.sub d).reg.read (if (r.sub d).ainc then a + 1 else a) = (r.sub d).reg.read next :=
      ⟨fun h => h hainc _ _ _ _ htwo, fun h _ x lo hi e hans => by cases htwo.symm.trans hans; exact h⟩
    rw [hauto, exists_next_iff]
    cases (r.sub d).ainc with
    | true => simp
    | false => simp
  · intro y lo hi e hans
    cases (refDev_readTwo s r d 0x7F hl he ho).symm.trans hans
    rw [if_pos hinc]
    exact ⟨rfl, rfl⟩
  · intro y lo hi e hans
    cases htwo.symm.trans hans
    rw [if_neg (by simp [hinc])]

end Sys2Proof.Machine
end
